-- ==== Sys2Proof/Word.lean ====
section
/-! DEFINITION. The block's one word: the byte (00_scope.md R11, R12). -/

namespace Sys2Proof

/-- An unsigned 8-bit value, bit 0 the least significant (00_scope.md R11, R12). Counts and sizes are
natural numbers. -/
abbrev Byte := BitVec 8

end Sys2Proof
end

