-- ==== Sys2Proof/Syntax.lean ====
section
/-! DEFINITION. The block's instruction set as a type: the function codes (30_encoding.md R63), the two word
spaces of opcode_table.json, and one constructor of Instr for each of the table's 44 rows. -/

namespace Sys2Proof

/-- The 27 function codes by name (30_encoding.md R63). Their byte values are a configuration input. -/
inductive FunctionCode where
  | endOfData
  | wait
  | abort
  | reserved3
  | reserved4
  | reserved5
  | ackAndStandby
  | ackAndDisconnect
  | acknowledge
  | altAcknowledge
  | reject
  | altReject
  | control
  | environmental
  | newEvent
  | oldEvent
  | program
  | configuration
  | remoteLogin
  | accountId
  | originId
  | ascii
  | extended
  | listenIn
  | videoRequest
  | videoFrame
  | video
  deriving DecidableEq, Repr

/-- The three classes of function codes (30_encoding.md R63). No operation reads the class. -/
inductive CodeClass where
  | system
  | info
  | special
  deriving DecidableEq, Repr

/-- Every function code, in the order of 30_encoding.md R63. -/
def FunctionCode.all : List FunctionCode :=
  [.endOfData, .wait, .abort, .reserved3, .reserved4, .reserved5, .ackAndStandby, .ackAndDisconnect, .acknowledge,
   .altAcknowledge, .reject, .altReject, .control, .environmental, .newEvent, .oldEvent, .program, .configuration,
   .remoteLogin, .accountId, .originId, .ascii, .extended, .listenIn, .videoRequest, .videoFrame, .video]

/-- The class column of 30_encoding.md R63. -/
def FunctionCode.codeClass : FunctionCode → CodeClass
  | .endOfData | .wait | .abort | .reserved3 | .reserved4 | .reserved5
  | .ackAndStandby | .ackAndDisconnect | .acknowledge | .altAcknowledge | .reject | .altReject => .system
  | .control | .environmental | .newEvent | .oldEvent | .program => .info
  | .configuration | .remoteLogin | .accountId | .originId | .ascii | .extended
  | .listenIn | .videoRequest | .videoFrame | .video => .special

/-- A word of one of the two spaces of opcode_table.json. A `command` is a byte string on the command port
(30_encoding.md R67). A `unit` is a byte string the host has read from the transport and hands to the framer
as the chunk of one INGEST (R60; log entry 1). -/
inductive PortWord where
  | command (bytes : List Byte)
  | unit (bytes : List Byte)
  deriving DecidableEq, Repr

/-- One constructor per row of opcode_table.json.

Format `command` (30_encoding.md R67): RESET to MK_CONFIGURATION, and the three reserved ops with whatever
bytes follow them.

Format `function_code` (R63): a wire unit of the R60 layout whose byte 1 is that code, with its header flags,
its payload and its checksum byte, right or wrong, as operands (log entry 1).

Format `block` (R60): the wire unit with any byte 1 and any checksum byte (log entry 1). -/
inductive Instr where
  | reset
  | ingest (chunk : List Byte)
  | csum (x : List Byte)
  | verify (x : List Byte)
  | serialize (flags : BitVec 2) (fc : Byte) (payload : List Byte)
  | deserialize (x : List Byte)
  | send (flags : BitVec 2) (fc : Byte) (payload : List Byte)
  | mkAckStandby
  | mkAckDisconnect
  | mkAck
  | mkReject
  | mkRemoteLogin
  | mkConfiguration
  | reservedOp7 (operands : List Byte)
  | reservedOpE (operands : List Byte)
  | reservedOpF (operands : List Byte)
  | endOfData (flags : BitVec 2) (payload : List Byte) (cs : Byte)
  | wait (flags : BitVec 2) (payload : List Byte) (cs : Byte)
  | abort (flags : BitVec 2) (payload : List Byte) (cs : Byte)
  | reserved3 (flags : BitVec 2) (payload : List Byte) (cs : Byte)
  | reserved4 (flags : BitVec 2) (payload : List Byte) (cs : Byte)
  | reserved5 (flags : BitVec 2) (payload : List Byte) (cs : Byte)
  | ackAndStandby (flags : BitVec 2) (payload : List Byte) (cs : Byte)
  | ackAndDisconnect (flags : BitVec 2) (payload : List Byte) (cs : Byte)
  | acknowledge (flags : BitVec 2) (payload : List Byte) (cs : Byte)
  | altAcknowledge (flags : BitVec 2) (payload : List Byte) (cs : Byte)
  | reject (flags : BitVec 2) (payload : List Byte) (cs : Byte)
  | altReject (flags : BitVec 2) (payload : List Byte) (cs : Byte)
  | control (flags : BitVec 2) (payload : List Byte) (cs : Byte)
  | environmental (flags : BitVec 2) (payload : List Byte) (cs : Byte)
  | newEvent (flags : BitVec 2) (payload : List Byte) (cs : Byte)
  | oldEvent (flags : BitVec 2) (payload : List Byte) (cs : Byte)
  | program (flags : BitVec 2) (payload : List Byte) (cs : Byte)
  | configuration (flags : BitVec 2) (payload : List Byte) (cs : Byte)
  | remoteLogin (flags : BitVec 2) (payload : List Byte) (cs : Byte)
  | accountId (flags : BitVec 2) (payload : List Byte) (cs : Byte)
  | originId (flags : BitVec 2) (payload : List Byte) (cs : Byte)
  | ascii (flags : BitVec 2) (payload : List Byte) (cs : Byte)
  | extended (flags : BitVec 2) (payload : List Byte) (cs : Byte)
  | listenIn (flags : BitVec 2) (payload : List Byte) (cs : Byte)
  | videoRequest (flags : BitVec 2) (payload : List Byte) (cs : Byte)
  | videoFrame (flags : BitVec 2) (payload : List Byte) (cs : Byte)
  | video (flags : BitVec 2) (payload : List Byte) (cs : Byte)
  | block (flags : BitVec 2) (fc : Byte) (payload : List Byte) (cs : Byte)
  deriving DecidableEq, Repr

/-- The wire unit of a function code as an instruction: each code its own constructor. -/
def Instr.ofCode (code : FunctionCode) (flags : BitVec 2) (payload : List Byte) (cs : Byte) : Instr :=
  match code with
  | .endOfData => .endOfData flags payload cs
  | .wait => .wait flags payload cs
  | .abort => .abort flags payload cs
  | .reserved3 => .reserved3 flags payload cs
  | .reserved4 => .reserved4 flags payload cs
  | .reserved5 => .reserved5 flags payload cs
  | .ackAndStandby => .ackAndStandby flags payload cs
  | .ackAndDisconnect => .ackAndDisconnect flags payload cs
  | .acknowledge => .acknowledge flags payload cs
  | .altAcknowledge => .altAcknowledge flags payload cs
  | .reject => .reject flags payload cs
  | .altReject => .altReject flags payload cs
  | .control => .control flags payload cs
  | .environmental => .environmental flags payload cs
  | .newEvent => .newEvent flags payload cs
  | .oldEvent => .oldEvent flags payload cs
  | .program => .program flags payload cs
  | .configuration => .configuration flags payload cs
  | .remoteLogin => .remoteLogin flags payload cs
  | .accountId => .accountId flags payload cs
  | .originId => .originId flags payload cs
  | .ascii => .ascii flags payload cs
  | .extended => .extended flags payload cs
  | .listenIn => .listenIn flags payload cs
  | .videoRequest => .videoRequest flags payload cs
  | .videoFrame => .videoFrame flags payload cs
  | .video => .video flags payload cs

end Sys2Proof
end

