-- ==== Sys2Proof/Config.lean ====
section
/-! DEFINITION. What is fixed for the machine: the constants of 00_scope.md R8, the configuration inputs of
00_scope.md R9 and 10_state.md R28 as plain data, and the one free value. -/

namespace Sys2Proof

/-- MAX_PAYLOAD (00_scope.md R8). -/
abbrev maxPayload : Nat := 63

/-- MIN_BLOCK (00_scope.md R8). -/
abbrev minBlock : Nat := 3

/-- MAX_BLOCK = MAX_PAYLOAD + 3 (00_scope.md R8). -/
abbrev maxBlock : Nat := 66

/-- CSUM_SEED (00_scope.md R8). -/
abbrev csumSeed : Byte := 0xFF

/-- LEN_MASK (00_scope.md R8). -/
abbrev lenMask : Byte := 0x3F

/-- The largest count a command's count byte can hold (30_encoding.md R67). -/
abbrev maxCount : Nat := 255

/-- FC_SET: a byte for each of the 27 names (00_scope.md R9, 30_encoding.md R63). -/
structure FcTable where
  endOfData : Byte
  wait : Byte
  abort : Byte
  reserved3 : Byte
  reserved4 : Byte
  reserved5 : Byte
  ackAndStandby : Byte
  ackAndDisconnect : Byte
  acknowledge : Byte
  altAcknowledge : Byte
  reject : Byte
  altReject : Byte
  control : Byte
  environmental : Byte
  newEvent : Byte
  oldEvent : Byte
  program : Byte
  configuration : Byte
  remoteLogin : Byte
  accountId : Byte
  originId : Byte
  ascii : Byte
  extended : Byte
  listenIn : Byte
  videoRequest : Byte
  videoFrame : Byte
  video : Byte
  deriving DecidableEq, Repr

/-- The byte FC_SET gives a name. -/
def FcTable.byte (t : FcTable) : FunctionCode → Byte
  | .endOfData => t.endOfData
  | .wait => t.wait
  | .abort => t.abort
  | .reserved3 => t.reserved3
  | .reserved4 => t.reserved4
  | .reserved5 => t.reserved5
  | .ackAndStandby => t.ackAndStandby
  | .ackAndDisconnect => t.ackAndDisconnect
  | .acknowledge => t.acknowledge
  | .altAcknowledge => t.altAcknowledge
  | .reject => t.reject
  | .altReject => t.altReject
  | .control => t.control
  | .environmental => t.environmental
  | .newEvent => t.newEvent
  | .oldEvent => t.oldEvent
  | .program => t.program
  | .configuration => t.configuration
  | .remoteLogin => t.remoteLogin
  | .accountId => t.accountId
  | .originId => t.originId
  | .ascii => t.ascii
  | .extended => t.extended
  | .listenIn => t.listenIn
  | .videoRequest => t.videoRequest
  | .videoFrame => t.videoFrame
  | .video => t.video

/-- FC_SET as a set of bytes: validity of a function code is membership here (30_encoding.md R64). -/
def FcTable.members (t : FcTable) : List Byte :=
  FunctionCode.all.map t.byte

/-- FC_SET gives 27 distinct bytes (00_scope.md R9). -/
abbrev FcTable.distinct (t : FcTable) : Prop :=
  t.members.Nodup

/-- The configuration inputs (00_scope.md R9, 10_state.md R28). `replyFlags` bit 0 is ack-request and bit 1 is
reverse-channel. -/
structure Config where
  fcSet : FcTable
  altAck : Bool
  altReject : Bool
  accessCode : List Byte
  capability : List Byte
  replyFlags : BitVec 2
  deriving DecidableEq, Repr

/-- The legal values of the configuration inputs (10_state.md R28, 70_reset_and_hazards.md R142). -/
abbrev Config.legal (c : Config) : Prop :=
  c.fcSet.distinct ∧ c.accessCode.length ≤ maxPayload ∧ c.capability.length ≤ maxPayload

/-- The transport's answer to the n-th SEND: a draw under no law (00_scope.md R10, 41_codec.md R105).
A free value: it has no body, and every claim holds for every value of it. DESIGN CHOICE, safe: log entry 7. -/
opaque Config.txAnswer : Nat → Bool

end Sys2Proof
end

