-- ==== Sys2Proof/WellFormed.lean ====
section
/-! DEFINITION. Which instructions the encodings of the spec can express. -/

namespace Sys2Proof

/-- An instruction some word of its row encodes. A counted operand fits the count byte (30_encoding.md R67).
The payload of SERIALIZE, of SEND and of a wire unit has at most 63 bytes (R60, R67). A general wire unit
carries no member of FC_SET at offset 1, since its word is then read as the named row (log entry 1). -/
def Instr.wellFormed (t : FcTable) : Instr → Bool
  | .reset | .mkAckStandby | .mkAckDisconnect | .mkAck | .mkReject | .mkRemoteLogin | .mkConfiguration => true
  | .reservedOp7 _ | .reservedOpE _ | .reservedOpF _ => true
  | .ingest x | .csum x | .verify x | .deserialize x => x.length ≤ maxCount
  | .serialize _ _ p | .send _ _ p => p.length ≤ maxPayload
  | .endOfData _ p _ | .wait _ p _ | .abort _ p _
  | .reserved3 _ p _ | .reserved4 _ p _ | .reserved5 _ p _
  | .ackAndStandby _ p _ | .ackAndDisconnect _ p _ | .acknowledge _ p _
  | .altAcknowledge _ p _ | .reject _ p _ | .altReject _ p _
  | .control _ p _ | .environmental _ p _ | .newEvent _ p _
  | .oldEvent _ p _ | .program _ p _ | .configuration _ p _
  | .remoteLogin _ p _ | .accountId _ p _ | .originId _ p _
  | .ascii _ p _ | .extended _ p _ | .listenIn _ p _
  | .videoRequest _ p _ | .videoFrame _ p _ | .video _ p _ => p.length ≤ maxPayload
  | .block _ fc p _ => p.length ≤ maxPayload && !(t.members.contains fc)

end Sys2Proof
end

