-- ==== Sys2Proof/Decode.lean ====
section
/-! DEFINITION. The default configuration, the header's fields, the decoder of both word spaces, total and rejecting
by name, and after it the encoder, from the same tables (30_encoding.md R60, R61, R65, R67, R69). -/

namespace Sys2Proof

/-- Why a word is no instruction (60_exceptions.md R123). -/
inductive DecodeError where
  /-- The byte string ends before its operands do (30_encoding.md R67). -/
  | commandTooShort
  /-- The byte string goes on after its operands (30_encoding.md R67). -/
  | commandTooLong
  /-- One of bits [7:4] of byte 0 is set (30_encoding.md R69). -/
  | illegalOpByte
  /-- One of bits [7:2] of a flags byte is set (30_encoding.md R69). -/
  | illegalFlags
  /-- A wire unit of more bytes than INGEST's count byte can carry (30_encoding.md R67, decision D24). -/
  | chunkTooLong
  deriving DecidableEq, Repr

/-- The name whose byte this is, if it is a member. -/
def FcTable.nameOf (t : FcTable) (b : Byte) : Option FunctionCode :=
  FunctionCode.all.find? fun code => t.byte code == b

/-- The default column of 30_encoding.md R63, which the spec marks as general knowledge (G1).
PRESUMED, unsafe: log entry 2. No rule depends on it. -/
def FcTable.default : FcTable where
  endOfData := 0x30
  wait := 0x31
  abort := 0x32
  reserved3 := 0x33
  reserved4 := 0x34
  reserved5 := 0x35
  ackAndStandby := 0x36
  ackAndDisconnect := 0x37
  acknowledge := 0x38
  altAcknowledge := 0x08
  reject := 0x39
  altReject := 0x09
  control := 0x43
  environmental := 0x45
  newEvent := 0x4E
  oldEvent := 0x4F
  program := 0x50
  configuration := 0x40
  remoteLogin := 0x3F
  accountId := 0x23
  originId := 0x26
  ascii := 0x41
  extended := 0x58
  listenIn := 0x4C
  videoRequest := 0x56
  videoFrame := 0x76
  video := 0x49

/-- The default configuration of 95_test_vectors.md section 1. DESIGN CHOICE, unsafe: log entries 2 and 3. -/
def Config.default : Config where
  fcSet := FcTable.default
  altAck := false
  altReject := false
  accessCode := [0x31, 0x32, 0x33, 0x34]
  capability := [0x41, 0x4C, 0x34, 0x42, 0x31]
  replyFlags := 0

/-- The header byte: the flags in bits [7:6] and the payload length in bits [5:0] (30_encoding.md R61). -/
def headerByte (flags : BitVec 2) (len : Nat) : Byte :=
  flags ++ BitVec.ofNat 6 len

/-- `len = hdr & 0x3F`, a number 0..63 (30_encoding.md R65). -/
def headerLen (hdr : Byte) : Nat :=
  (hdr &&& lenMask).toNat

/-- `hdr[7:6]`: bit 1 reverse-channel, bit 0 ack-request (30_encoding.md R61). -/
def headerFlags (hdr : Byte) : BitVec 2 :=
  hdr.extractLsb' 6 2

/-- The operand form `none` of 30_encoding.md R67. -/
def decodeNone (i : Instr) (rest : List Byte) : Except DecodeError Instr :=
  match rest with
  | [] => .ok i
  | _ :: _ => .error .commandTooLong

/-- Exactly `n` operand bytes, no fewer and no more (30_encoding.md R67). -/
def decodeExactly (n : Nat) (xs : List Byte) (i : Instr) : Except DecodeError Instr :=
  if xs.length < n then .error .commandTooShort
  else if n < xs.length then .error .commandTooLong
  else .ok i

/-- The operand form `n`, then n bytes (30_encoding.md R67). -/
def decodeCounted (mk : List Byte → Instr) (rest : List Byte) : Except DecodeError Instr :=
  match rest with
  | [] => .error .commandTooShort
  | n :: xs => decodeExactly n.toNat xs (mk xs)

/-- The operand form `flags`, `fc`, `n`, then n payload bytes (30_encoding.md R67). Bits [7:2] of the flags
byte must be 0 (R69). A count over 63 decodes and is refused by the operation (41_codec.md R102). -/
def decodeBlockOperands (mk : BitVec 2 → Byte → List Byte → Instr) (rest : List Byte) :
    Except DecodeError Instr :=
  match rest with
  | flags :: fc :: n :: xs =>
    if flags.extractLsb' 2 6 ≠ 0 then .error .illegalFlags
    else decodeExactly n.toNat xs (mk (flags.extractLsb' 0 2) fc xs)
  | _ => .error .commandTooShort

/-- The op table of 30_encoding.md R67, on the op number and the bytes after byte 0. -/
def decodeOp (op : Nat) (rest : List Byte) : Except DecodeError Instr :=
  match op with
  | 0x0 => decodeNone .reset rest
  | 0x1 => decodeCounted .ingest rest
  | 0x2 => decodeCounted .csum rest
  | 0x3 => decodeCounted .verify rest
  | 0x4 => decodeBlockOperands .serialize rest
  | 0x5 => decodeCounted .deserialize rest
  | 0x6 => decodeBlockOperands .send rest
  | 0x7 => .ok (.reservedOp7 rest)
  | 0x8 => decodeNone .mkAckStandby rest
  | 0x9 => decodeNone .mkAckDisconnect rest
  | 0xA => decodeNone .mkAck rest
  | 0xB => decodeNone .mkReject rest
  | 0xC => decodeNone .mkRemoteLogin rest
  | 0xD => decodeNone .mkConfiguration rest
  | 0xE => .ok (.reservedOpE rest)
  | 0xF => .ok (.reservedOpF rest)
  | _ => .error .illegalOpByte

/-- A command byte string (30_encoding.md R67): byte 0 is the op, and its bits [7:4] must be 0 (R69), so a byte
of 0x10 or more is no op. -/
def decodeCommand : List Byte → Except DecodeError Instr
  | [] => .error .commandTooShort
  | op :: rest => decodeOp op.toNat rest

/-- The instruction of a wire unit with these fields: the named row where byte 1 is a member of FC_SET, else the
general row (30_encoding.md R60, R63). -/
def unitInstr (t : FcTable) (flags : BitVec 2) (fc : Byte) (payload : List Byte) (cs : Byte) : Instr :=
  match t.nameOf fc with
  | some code => Instr.ofCode code flags payload cs
  | none => .block flags fc payload cs

/-- A byte string of no block layout is a chunk like any other: every byte is accepted at every position
(20_memory.md R46), up to the 255 bytes of one INGEST (decision D24). -/
def rawChunk (bytes : List Byte) : Except DecodeError Instr :=
  if bytes.length ≤ maxCount then .ok (.ingest bytes) else .error .chunkTooLong

/-- A wire unit (30_encoding.md R60, R66): header, function code, as many payload bytes as the header says, and
one checksum byte. -/
def decodeUnit (t : FcTable) (bytes : List Byte) : Except DecodeError Instr :=
  match bytes with
  | hdr :: fc :: rest =>
    if rest.length = headerLen hdr + 1 then
      .ok (unitInstr t (headerFlags hdr) fc (rest.take (headerLen hdr)) (rest.getD (headerLen hdr) 0))
    else rawChunk bytes
  | _ => rawChunk bytes

/-- The decoder of both word spaces. -/
def decode (t : FcTable) : PortWord → Except DecodeError Instr
  | .command bytes => decodeCommand bytes
  | .unit bytes => decodeUnit t bytes

/-- The bytes of a wire unit in the order of 20_memory.md R43. -/
def unitBytes (flags : BitVec 2) (fc : Byte) (payload : List Byte) (cs : Byte) : List Byte :=
  headerByte flags payload.length :: fc :: payload ++ [cs]

/-- A command of the counted form (30_encoding.md R67). -/
def encodeCounted (op : Byte) (xs : List Byte) : PortWord :=
  .command (op :: BitVec.ofNat 8 xs.length :: xs)

/-- A command of the form `flags`, `fc`, `n`, payload (30_encoding.md R67). -/
def encodeBlockOperands (op : Byte) (flags : BitVec 2) (fc : Byte) (payload : List Byte) : PortWord :=
  .command (op :: flags.setWidth 8 :: fc :: BitVec.ofNat 8 payload.length :: payload)

/-- The word of a well-formed instruction. -/
def encode (t : FcTable) : Instr → PortWord
  | .reset => .command [0x00]
  | .ingest x => encodeCounted 0x01 x
  | .csum x => encodeCounted 0x02 x
  | .verify x => encodeCounted 0x03 x
  | .serialize f fc p => encodeBlockOperands 0x04 f fc p
  | .deserialize x => encodeCounted 0x05 x
  | .send f fc p => encodeBlockOperands 0x06 f fc p
  | .mkAckStandby => .command [0x08]
  | .mkAckDisconnect => .command [0x09]
  | .mkAck => .command [0x0A]
  | .mkReject => .command [0x0B]
  | .mkRemoteLogin => .command [0x0C]
  | .mkConfiguration => .command [0x0D]
  | .reservedOp7 x => .command (0x07 :: x)
  | .reservedOpE x => .command (0x0E :: x)
  | .reservedOpF x => .command (0x0F :: x)
  | .endOfData f p c => .unit (unitBytes f t.endOfData p c)
  | .wait f p c => .unit (unitBytes f t.wait p c)
  | .abort f p c => .unit (unitBytes f t.abort p c)
  | .reserved3 f p c => .unit (unitBytes f t.reserved3 p c)
  | .reserved4 f p c => .unit (unitBytes f t.reserved4 p c)
  | .reserved5 f p c => .unit (unitBytes f t.reserved5 p c)
  | .ackAndStandby f p c => .unit (unitBytes f t.ackAndStandby p c)
  | .ackAndDisconnect f p c => .unit (unitBytes f t.ackAndDisconnect p c)
  | .acknowledge f p c => .unit (unitBytes f t.acknowledge p c)
  | .altAcknowledge f p c => .unit (unitBytes f t.altAcknowledge p c)
  | .reject f p c => .unit (unitBytes f t.reject p c)
  | .altReject f p c => .unit (unitBytes f t.altReject p c)
  | .control f p c => .unit (unitBytes f t.control p c)
  | .environmental f p c => .unit (unitBytes f t.environmental p c)
  | .newEvent f p c => .unit (unitBytes f t.newEvent p c)
  | .oldEvent f p c => .unit (unitBytes f t.oldEvent p c)
  | .program f p c => .unit (unitBytes f t.program p c)
  | .configuration f p c => .unit (unitBytes f t.configuration p c)
  | .remoteLogin f p c => .unit (unitBytes f t.remoteLogin p c)
  | .accountId f p c => .unit (unitBytes f t.accountId p c)
  | .originId f p c => .unit (unitBytes f t.originId p c)
  | .ascii f p c => .unit (unitBytes f t.ascii p c)
  | .extended f p c => .unit (unitBytes f t.extended p c)
  | .listenIn f p c => .unit (unitBytes f t.listenIn p c)
  | .videoRequest f p c => .unit (unitBytes f t.videoRequest p c)
  | .videoFrame f p c => .unit (unitBytes f t.videoFrame p c)
  | .video f p c => .unit (unitBytes f t.video p c)
  | .block f fc p c => .unit (unitBytes f fc p c)

/-- How many bytes a command of this op has when its operands are zeros (30_encoding.md R67). -/
def zeroOperandLength (op : Byte) : Nat :=
  match op.toNat with
  | 0x1 | 0x2 | 0x3 | 0x5 => 2
  | 0x4 | 0x6 => 4
  | _ => 1

/-- The bytes of a number, the first byte its least significant. -/
def bytesOf : Nat → Nat → List Byte
  | 0, _ => []
  | k + 1, w => BitVec.ofNat 8 w :: bytesOf k (w / 256)

/-- The word that a row of opcode_table.json stands for, its operands zeros. A first byte that is an op of
30_encoding.md R67 starts a command. Any other byte is of the table's function_code column, whose position is
byte 1 of a block: header 0 before it and checksum 0 after it (log entry 1). -/
def tableWord (nbits w : Nat) : PortWord :=
  match bytesOf ((nbits + 7) / 8) w with
  | [] => .command []
  | b :: rest =>
    if b.toNat < 0x10 then
      .command (b :: rest ++ List.replicate (zeroOperandLength b - (rest.length + 1)) 0)
    else .unit (0x00 :: b :: rest ++ [0x00])

/-- What the decoder reads from a row of opcode_table.json, with the default FC_SET. -/
def decodeTableWord (nbits w : Nat) : Option Instr :=
  match decode FcTable.default (tableWord nbits w) with
  | .ok i => some i
  | .error _ => none

end Sys2Proof
end

