-- ==== Sys2Proof/Machine/State.lean ====
section
/-! DEFINITION. The machine's state, its outputs, its inputs, the reasons a step can stop, and the state at reset. -/

namespace Sys2Proof.Machine

open Sys2Proof

/-- A Block (10_state.md R25). -/
structure Block where
  hdr : Byte
  fc : Byte
  payload : List Byte
  cs : Byte
  deriving DecidableEq, Repr

/-- The reasons of `INVALID(reason)` (41_codec.md R103, 30_encoding.md R68). -/
inductive InvalidReason where
  | short
  | length
  | badFc
  | badChecksum
  deriving DecidableEq, Repr

/-- What a transaction returns (10_state.md R27, 30_encoding.md R67). -/
inductive Result where
  /-- `BLOCK(b)` of INGEST. -/
  | block (b : Block)
  /-- `NEED_MORE` of INGEST. -/
  | needMore
  /-- `FAULT_OVERRUN` of INGEST: the report of a BufferOverrun (60_exceptions.md R120). -/
  | faultOverrun
  /-- The byte CSUM returns. -/
  | checksum (c : Byte)
  /-- The Bool VERIFY returns. -/
  | verified (ok : Bool)
  /-- The bytes SERIALIZE returns. -/
  | serialized (bytes : List Byte)
  /-- `OK(b)` of DESERIALIZE. -/
  | deserialized (b : Block)
  /-- `INVALID(reason)` of DESERIALIZE. -/
  | invalid (r : InvalidReason)
  /-- The Bool SEND returns: the transport's answer. -/
  | sent (ok : Bool)
  /-- The Block an MK_* command returns. -/
  | made (b : Block)
  deriving DecidableEq, Repr

/-- The output events (10_state.md R26). Log events carry no text. -/
inductive Event where
  | resync
  | csumFail
  | notifyReject
  | tx (bytes : List Byte)
  deriving DecidableEq, Repr

/-- Who issues commands: the host's thread, or another part of the stack (00_scope.md R7, 20_memory.md R49). -/
inductive Issuer where
  | host
  | other (n : Nat)
  deriving DecidableEq, Repr

/-- The requesters of the shared TX port (20_memory.md R50): the framer's implicit Reject, and the SENDs of each
issuer of commands. -/
inductive Requester where
  | framer
  | sender (who : Issuer)
  deriving DecidableEq, Repr

/-- One whole serialized block and who submitted it (20_memory.md R50). -/
structure TxBlock where
  requester : Requester
  bytes : List Byte
  deriving DecidableEq, Repr

/-- What the outside does to the block next. -/
inductive Input where
  /-- A word on the command port and who issued it (30_encoding.md R67, 20_memory.md R50). -/
  | port (who : Issuer) (word : PortWord)
  /-- The integrator sets the configuration inputs (70_reset_and_hazards.md R142). -/
  | configure (c : Config)
  /-- The TX port's lock lets out the oldest waiting block of one requester (20_memory.md R50). -/
  | grant (who : Requester)
  deriving DecidableEq, Repr

/-- The machine stops with a fault: never. The block's only fault, BufferOverrun, is a result and the bit `faulted`,
not a stop (60_exceptions.md R120, R126), so there is no constructor. Safe: no run is cut short by a fault. -/
inductive Fault where
  deriving DecidableEq, Repr

/-- The model gives the command no meaning (60_exceptions.md R123). Each is safe: the run ends where the spec
refuses, and nothing can be proved of what follows. -/
inductive Refusal where
  /-- Raised by exec's arm of an instruction that has no meaning yet. Safe: the run ends. No arm raises it. -/
  | notModelled (mnemonic : String)
  /-- Raised by step when the decoder finds no instruction in the word (30_encoding.md R67, R69). Safe. -/
  | undecodable (e : DecodeError)
  /-- Raised by RESERVED_7, RESERVED_E and RESERVED_F (30_encoding.md R69). Safe. -/
  | reservedOp (op : Nat)
  /-- Raised by SERIALIZE and SEND for a function code outside FC_SET (41_codec.md R102). Safe. -/
  | invalidFunctionCode
  /-- Raised by SERIALIZE and SEND for more than 63 payload bytes (41_codec.md R102). Safe. -/
  | payloadTooLong
  /-- Raised by MK_REMOTE_LOGIN, MK_CONFIGURATION and the configure input for an access code or a capability string
  over 63 bytes (60_exceptions.md R123, 70_reset_and_hazards.md R142). Safe. -/
  | configurationTooLong
  /-- Raised by the configure input when FC_SET does not give 27 distinct bytes (00_scope.md R9, 10_state.md R28).
  Safe. -/
  | functionCodesNotDistinct
  /-- Raised by the configure input when it changes a configuration input after the first command (20_memory.md R52).
  Safe. -/
  | configurationChanged
  deriving DecidableEq, Repr

/-- Everything the spec gives one Framer instance, its inputs and its outputs. -/
structure State where
  /-- The receive buffer, oldest byte first (10_state.md R21). -/
  buf : List Byte
  /-- A BufferOverrun has occurred (10_state.md R23). -/
  faulted : Bool
  /-- The configuration inputs (10_state.md R28). -/
  cfg : Config
  /-- The first command has come: the configuration inputs are constant (20_memory.md R52; log entry 4). -/
  configClosed : Bool
  /-- What the last transaction returned (10_state.md R26). -/
  result : Option Result
  /-- The output events of the last transaction, in order (10_state.md R26). -/
  events : List Event
  /-- Blocks waiting for the TX port, oldest first (20_memory.md R50; log entry 6). -/
  txQueue : List TxBlock
  /-- Blocks that have gone out on the TX port, oldest first (20_memory.md R50; log entry 6). -/
  txPort : List TxBlock
  /-- Who issued the command now executing (00_scope.md R7; log entry 6). -/
  issuer : Issuer
  /-- How many transport answers have been drawn (00_scope.md R10; log entry 7). The model's own. -/
  draws : Nat
  /-- What the outside does next, oldest first (log entry 5). -/
  input : List Input
  deriving DecidableEq, Repr

/-- The state RESET leaves, which is the state at power-on (10_state.md R30, 70_reset_and_hazards.md R141), with the
default configuration (log entries 2 and 3) and nothing done by the outside yet (log entries 4 to 7). -/
def State.reset : State where
  buf := []
  faulted := false
  cfg := Config.default
  configClosed := false
  result := none
  events := []
  txQueue := []
  txPort := []
  issuer := .host
  draws := 0
  input := []

end Sys2Proof.Machine
end

