-- ==== Sys2Proof/Machine/Operands.lean ====
section
/-! DEFINITION. The primitives of 00_scope.md R13 on byte lists, the checksum, and the block as an operand: its
size, its bytes, how it is built and how it is taken apart. -/

namespace Sys2Proof.Machine

open Sys2Proof

/-- BUF_CAP = 2 × MAX_BLOCK (00_scope.md R8; log entry 10). -/
abbrev bufCap : Nat := 132

/-- `xorfold(seed, xs)` (00_scope.md R13). -/
def xorfold (seed : Byte) (xs : List Byte) : Byte :=
  xs.foldl (· ^^^ ·) seed

/-- The checksum of the bytes before it (30_encoding.md R62). -/
def checksum (x : List Byte) : Byte :=
  xorfold csumSeed x

/-- `xs[i..j)` (00_scope.md R13). -/
def slice (i j : Nat) (xs : List Byte) : List Byte :=
  (xs.take j).drop i

/-- The block size `(hdr & 0x3F) + 3` (30_encoding.md R65). -/
def blockSize (hdr : Byte) : Nat :=
  headerLen hdr + minBlock

/-- The last byte of the first `n` bytes equals the checksum of those before it (40_framer.md R87). -/
def checksumMatches (n : Nat) (xs : List Byte) : Bool :=
  checksum (slice 0 (n - 1) xs) == xs.getD (n - 1) 0

/-- VERIFY (41_codec.md R101): false on the empty list. -/
def verifyBytes (x : List Byte) : Bool :=
  !x.isEmpty && checksumMatches x.length x

/-- The block in the first `n` bytes (40_framer.md R88). -/
def blockAt (n : Nat) (xs : List Byte) : Block where
  hdr := xs.getD 0 0
  fc := xs.getD 1 0
  payload := slice 2 (n - 1) xs
  cs := xs.getD (n - 1) 0

/-- The bytes of a Block in wire order (20_memory.md R43). -/
def Block.bytes (b : Block) : List Byte :=
  b.hdr :: b.fc :: b.payload ++ [b.cs]

/-- A Block with its header and its checksum computed (41_codec.md R102, R106). -/
def makeBlock (flags : BitVec 2) (fc : Byte) (payload : List Byte) : Block where
  hdr := headerByte flags payload.length
  fc := fc
  payload := payload
  cs := checksum (headerByte flags payload.length :: fc :: payload)

/-- The bytes SERIALIZE returns (41_codec.md R102). -/
def serializeBytes (flags : BitVec 2) (fc : Byte) (payload : List Byte) : List Byte :=
  (makeBlock flags fc payload).bytes

/-- Why SERIALIZE and SEND refuse, the function code first (41_codec.md R102). -/
def operandRefusal (t : FcTable) (fc : Byte) (payload : List Byte) : Option Refusal :=
  if fc ∉ t.members then some .invalidFunctionCode
  else if maxPayload < payload.length then some .payloadTooLong
  else none

/-- DESERIALIZE (41_codec.md R103): the framer's checks in the framer's order, the length exact. -/
def deserializeBytes (t : FcTable) (x : List Byte) : Result :=
  match x with
  | hdr :: fc :: _ :: _ =>
    if fc ∉ t.members then .invalid .badFc
    else if x.length ≠ blockSize hdr then .invalid .length
    else if checksumMatches x.length x then .deserialized (blockAt x.length x)
    else .invalid .badChecksum
  | _ => .invalid .short

/-- A canonical outbound block: REPLY_FLAGS in the header and the checksum computed (41_codec.md section 4). -/
def replyBlock (c : Config) (code : FunctionCode) (payload : List Byte) : Block :=
  makeBlock c.replyFlags (c.fcSet.byte code) payload

/-- The block of MK_ACK (41_codec.md R108). -/
def ackBlock (c : Config) : Block :=
  replyBlock c (if c.altAck then .altAcknowledge else .acknowledge) []

/-- The block of MK_REJECT, which is also the framer's implicit Reject (41_codec.md R109, 40_framer.md R87). -/
def rejectBlock (c : Config) : Block :=
  replyBlock c (if c.altReject then .altReject else .reject) []

/-- Why MK_REMOTE_LOGIN and MK_CONFIGURATION refuse: their string cannot be a payload (60_exceptions.md R123). -/
def stringRefusal (payload : List Byte) : Option Refusal :=
  if maxPayload < payload.length then some .configurationTooLong else none

end Sys2Proof.Machine
end

