-- ==== Sys2Proof/Machine/Flags.lean ====
section
/-! DEFINITION. The block has no condition flags (10_state.md R24). Its only flags are the two header flags of a
Block, which no operation tests (30_encoding.md R61, 40_framer.md R91). -/

namespace Sys2Proof.Machine

open Sys2Proof

/-- `len = hdr[5:0]` (10_state.md R25). -/
def Block.len (b : Block) : Nat :=
  headerLen b.hdr

/-- `ack_request = hdr[6]` (10_state.md R25). -/
def Block.ackRequest (b : Block) : Bool :=
  b.hdr.getLsbD 6

/-- `reverse_channel = hdr[7]` (10_state.md R25). -/
def Block.reverseChannel (b : Block) : Bool :=
  b.hdr.getLsbD 7

/-- `b.hdr[7:6]`, the flags operand of a SERIALIZE or SEND of this Block (41_codec.md R102, 30_encoding.md R71). -/
def Block.flags (b : Block) : BitVec 2 :=
  headerFlags b.hdr

end Sys2Proof.Machine
end

