-- ==== Sys2Proof/Machine/Ops.lean ====
section
/-! DEFINITION. The named operations on the state: answering a transaction, submitting to the TX port, raising
BufferOverrun and leaving it, drawing the transport's answer, and what the outside's inputs do. -/

namespace Sys2Proof.Machine

open Sys2Proof

/-- End a transaction with this result and these events, in place of the last one's (10_state.md R24, R26). -/
def State.answer (s : State) (r : Option Result) (ev : List Event) : State :=
  { s with result := r, events := ev }

/-- The blocks a list of events puts on the TX port, in order (60_exceptions.md R124). -/
def txBytes : List Event → List (List Byte)
  | [] => []
  | .tx bytes :: rest => bytes :: txBytes rest
  | _ :: rest => txBytes rest

/-- Submit the blocks of these events to the TX port for one requester, behind all that wait (20_memory.md R50). -/
def State.submit (s : State) (who : Requester) (ev : List Event) : State :=
  { s with txQueue := s.txQueue ++ (txBytes ev).map (TxBlock.mk who) }

/-- `raise BufferOverrun` (00_scope.md R13, 60_exceptions.md R120): the block's only exception. It writes `faulted`
and nothing else, and reports FAULT_OVERRUN. No state is saved and control goes nowhere (R126). -/
def raiseBufferOverrun (s : State) : State :=
  { s with faulted := true }.answer (some .faultOverrun) []

/-- The only way out of the faulted state, and the reset of the framer (60_exceptions.md R127,
70_reset_and_hazards.md R140). -/
def clearFramer (s : State) : State :=
  { s with buf := [], faulted := false }.answer none []

/-- `draw_tx_result()` (41_codec.md R105): the free value at the draw counter, and the counter advanced. -/
def drawTxResult (s : State) : Bool × State :=
  (Config.txAnswer s.draws, { s with draws := s.draws + 1 })

/-- Take the word of one input off the command port: the rest of the inputs, who issued it, and from now on the
configuration inputs are constant (20_memory.md R52). -/
def State.issue (s : State) (who : Issuer) (rest : List Input) : State :=
  { s with input := rest, issuer := who, configClosed := true }

/-- Set the configuration inputs (70_reset_and_hazards.md R142). Before the first command any legal value is taken.
After it only the value they have, since a change is refused (20_memory.md R52). -/
def configure (c : Config) (s : State) : Host.Outcome State Fault Refusal :=
  if s.configClosed then
    if c = s.cfg then .next s else .refused .configurationChanged
  else if ¬ c.fcSet.distinct then .refused .functionCodesNotDistinct
  else if maxPayload < c.accessCode.length ∨ maxPayload < c.capability.length then .refused .configurationTooLong
  else .next { s with cfg := c }

/-- The oldest block of a requester in the queue, and the queue without it. -/
def takeOldest (who : Requester) : List TxBlock → Option (TxBlock × List TxBlock)
  | [] => none
  | q :: rest =>
    if q.requester = who then some (q, rest)
    else match takeOldest who rest with
      | some (b, left) => some (b, q :: left)
      | none => none

/-- The lock of the TX port lets out one requester's oldest block, whole; with none waiting nothing happens
(20_memory.md R50, 70_reset_and_hazards.md R147). -/
def grantTx (who : Requester) (s : State) : State :=
  match takeOldest who s.txQueue with
  | some (b, left) => { s with txQueue := left, txPort := s.txPort ++ [b] }
  | none => s

/-- Decode the word on the command port with the function codes that are wired (30_encoding.md R63, R67). -/
def fetch (s : State) (word : PortWord) : Except DecodeError Instr :=
  decode s.cfg.fcSet word

/-- With no input the block does nothing and holds its state (60_exceptions.md R133). -/
def idle (s : State) : State :=
  s

/-- The state with one word waiting on the command port, issued by the host before all that waits. -/
def State.withWord (s : State) (word : PortWord) : State :=
  { s with input := .port .host word :: s.input }

end Sys2Proof.Machine
end

