-- ==== Sys2Proof/Machine/Codec.lean ====
section
/-! DEFINITION. The Block Codec (41_codec.md): stateless operations on their operands and the configuration inputs,
and SEND, whose only effects are its event and the transport's draw. -/

namespace Sys2Proof.Machine

open Sys2Proof

/-- A codec operation that returns a result and emits nothing (20_memory.md R48). -/
def returns (r : Result) (s : State) : Host.Outcome State Fault Refusal :=
  .next (s.answer (some r) [])

/-- An operation that some operands refuse (60_exceptions.md R123). -/
def orRefuse (refusal : Option Refusal) (next : Host.Outcome State Fault Refusal) : Host.Outcome State Fault Refusal :=
  match refusal with
  | some r => .refused r
  | none => next

/-- CSUM (41_codec.md R100). -/
def execCsum (x : List Byte) (s : State) : Host.Outcome State Fault Refusal :=
  returns (.checksum (checksum x)) s

/-- VERIFY (41_codec.md R101). -/
def execVerify (x : List Byte) (s : State) : Host.Outcome State Fault Refusal :=
  returns (.verified (verifyBytes x)) s

/-- SERIALIZE (41_codec.md R102). -/
def execSerialize (flags : BitVec 2) (fc : Byte) (payload : List Byte) (s : State) :
    Host.Outcome State Fault Refusal :=
  orRefuse (operandRefusal s.cfg.fcSet fc payload) (returns (.serialized (serializeBytes flags fc payload)) s)

/-- DESERIALIZE (41_codec.md R103). -/
def execDeserialize (x : List Byte) (s : State) : Host.Outcome State Fault Refusal :=
  returns (deserializeBytes s.cfg.fcSet x) s

/-- Put one whole block on the TX port for the issuer and return the transport's answer (41_codec.md R105). -/
def sendBytes (bytes : List Byte) (s : State) : State :=
  let (ok, drawn) := drawTxResult s
  (drawn.submit (.sender s.issuer) [.tx bytes]).answer (some (.sent ok)) [.tx bytes]

/-- SEND (41_codec.md R105). -/
def execSend (flags : BitVec 2) (fc : Byte) (payload : List Byte) (s : State) : Host.Outcome State Fault Refusal :=
  orRefuse (operandRefusal s.cfg.fcSet fc payload) (.next (sendBytes (serializeBytes flags fc payload) s))

/-- MK_ACK_STANDBY (41_codec.md R106). -/
def execMkAckStandby (s : State) : Host.Outcome State Fault Refusal :=
  returns (.made (replyBlock s.cfg .ackAndStandby [])) s

/-- MK_ACK_DISCONNECT (41_codec.md R107). -/
def execMkAckDisconnect (s : State) : Host.Outcome State Fault Refusal :=
  returns (.made (replyBlock s.cfg .ackAndDisconnect [])) s

/-- MK_ACK (41_codec.md R108). -/
def execMkAck (s : State) : Host.Outcome State Fault Refusal :=
  returns (.made (ackBlock s.cfg)) s

/-- MK_REJECT (41_codec.md R109). -/
def execMkReject (s : State) : Host.Outcome State Fault Refusal :=
  returns (.made (rejectBlock s.cfg)) s

/-- MK_REMOTE_LOGIN (41_codec.md R110). -/
def execMkRemoteLogin (s : State) : Host.Outcome State Fault Refusal :=
  orRefuse (stringRefusal s.cfg.accessCode) (returns (.made (replyBlock s.cfg .remoteLogin s.cfg.accessCode)) s)

/-- MK_CONFIGURATION (41_codec.md R111). -/
def execMkConfiguration (s : State) : Host.Outcome State Fault Refusal :=
  orRefuse (stringRefusal s.cfg.capability) (returns (.made (replyBlock s.cfg .configuration s.cfg.capability)) s)

end Sys2Proof.Machine
end

