-- ==== Sys2Proof/Machine/Framer.lean ====
section
/-! DEFINITION. The Block Framer: one pass of the extraction loop, the loop, INGEST, and RESET (40_framer.md,
70_reset_and_hazards.md R140). -/

namespace Sys2Proof.Machine

open Sys2Proof

/-- What one pass of the loop of 40_framer.md R80 finds at the front of the buffer. -/
inductive Pass where
  /-- Fewer than 3 bytes (R84). -/
  | short
  /-- Byte 1 is not a member of FC_SET (R85). -/
  | badFunctionCode
  /-- Fewer bytes than the header asks for (R86). -/
  | incomplete
  /-- The checksum does not match (R87). -/
  | badChecksum
  /-- A block of this size stands at the front (R88). -/
  | found (size : Nat)
  deriving DecidableEq, Repr

/-- One pass, the tests in the order of 60_exceptions.md R125. -/
def framerPass (t : FcTable) (buf : List Byte) : Pass :=
  match buf with
  | hdr :: fc :: _ :: _ =>
    if fc ∉ t.members then .badFunctionCode
    else if buf.length < blockSize hdr then .incomplete
    else if checksumMatches (blockSize hdr) buf then .found (blockSize hdr)
    else .badChecksum
  | _ => .short

/-- The events of a checksum mismatch, in order (40_framer.md R87). -/
def rejectEvents (c : Config) : List Event :=
  [.csumFail, .notifyReject, .tx (rejectBlock c).bytes]

/-- What the loop leaves: the Block it returns, if any, the buffer and the events. -/
structure Extraction where
  block : Option Block
  buf : List Byte
  events : List Event
  deriving DecidableEq, Repr

/-- The events of a pass that dropped one byte, before those of the passes after it. -/
def Extraction.after (ev : List Event) (e : Extraction) : Extraction :=
  { e with events := ev ++ e.events }

/-- The loop of 40_framer.md R80: every pass returns or drops exactly one byte from the front (R89). -/
def extract (c : Config) : List Byte → Extraction
  | [] => ⟨none, [], []⟩
  | h :: rest =>
    match framerPass c.fcSet (h :: rest) with
    | .short => ⟨none, h :: rest, []⟩
    | .badFunctionCode => (extract c rest).after [.resync]
    | .incomplete => ⟨none, h :: rest, []⟩
    | .badChecksum => (extract c rest).after (rejectEvents c)
    | .found size => ⟨some (blockAt size (h :: rest)), (h :: rest).drop size, []⟩

/-- The result of a loop that ended (10_state.md R27). -/
def Extraction.result (e : Extraction) : Result :=
  match e.block with
  | some b => .block b
  | none => .needMore

/-- The whole of INGEST (40_framer.md R80): the fault gate (R81), the overrun check (R82), the append (R83) and the
loop (R84 to R89). -/
def ingestChunk (chunk : List Byte) (s : State) : State :=
  if s.faulted then s.answer (some .faultOverrun) []
  else if bufCap < s.buf.length + chunk.length then raiseBufferOverrun s
  else
    let e := extract s.cfg (s.buf ++ chunk)
    ({ s with buf := e.buf }.submit .framer e.events).answer (some e.result) e.events

/-- RESET (70_reset_and_hazards.md R140). -/
def execReset (s : State) : Host.Outcome State Fault Refusal :=
  .next (clearFramer s)

/-- INGEST, and POLL when the chunk is empty (40_framer.md R80, R92). -/
def execIngest (chunk : List Byte) (s : State) : Host.Outcome State Fault Refusal :=
  .next (ingestChunk chunk s)

end Sys2Proof.Machine
end

