-- ==== Sys2Proof/Machine/Reserved.lean ====
section
/-! DEFINITION. The reserved command ops, which the spec refuses whatever follows them (30_encoding.md R69,
60_exceptions.md R123). -/

namespace Sys2Proof.Machine

open Sys2Proof

/-- The refusal of a reserved op. -/
def refuseReserved (op : Nat) : Host.Outcome State Fault Refusal :=
  .refused (.reservedOp op)

/-- RESERVED_7 (30_encoding.md R69). -/
def execReservedOp7 (_operands : List Byte) (_s : State) : Host.Outcome State Fault Refusal :=
  refuseReserved 0x7

/-- RESERVED_E (30_encoding.md R69). -/
def execReservedOpE (_operands : List Byte) (_s : State) : Host.Outcome State Fault Refusal :=
  refuseReserved 0xE

/-- RESERVED_F (30_encoding.md R69). -/
def execReservedOpF (_operands : List Byte) (_s : State) : Host.Outcome State Fault Refusal :=
  refuseReserved 0xF

end Sys2Proof.Machine
end

