-- ==== Sys2Proof/Machine/Units.lean ====
section
/-! DEFINITION. The wire units: the 27 function_code rows and the BLOCK row of opcode_table.json. Each is the
transaction in which the host hands the framer exactly the bytes of that unit (30_encoding.md R60, R63, R64;
40_framer.md R80; log entry 1). -/

namespace Sys2Proof.Machine

open Sys2Proof

/-- A unit whose byte 1 is the byte FC_SET gives `code`, as one INGEST of its bytes. -/
def receiveUnit (code : FunctionCode) (flags : BitVec 2) (payload : List Byte) (cs : Byte) (s : State) :
    Host.Outcome State Fault Refusal :=
  .next (ingestChunk (unitBytes flags (s.cfg.fcSet.byte code) payload cs) s)

/-- end_of_data (30_encoding.md R63, R64; 40_framer.md R80). -/
def execEndOfData (flags : BitVec 2) (payload : List Byte) (cs : Byte) (s : State) :
    Host.Outcome State Fault Refusal :=
  receiveUnit .endOfData flags payload cs s

/-- wait (30_encoding.md R63, R64; 40_framer.md R80). -/
def execWait (flags : BitVec 2) (payload : List Byte) (cs : Byte) (s : State) :
    Host.Outcome State Fault Refusal :=
  receiveUnit .wait flags payload cs s

/-- abort (30_encoding.md R63, R64; 40_framer.md R80). -/
def execAbort (flags : BitVec 2) (payload : List Byte) (cs : Byte) (s : State) :
    Host.Outcome State Fault Refusal :=
  receiveUnit .abort flags payload cs s

/-- reserved_3 (30_encoding.md R63, R64; 40_framer.md R80). -/
def execReserved3 (flags : BitVec 2) (payload : List Byte) (cs : Byte) (s : State) :
    Host.Outcome State Fault Refusal :=
  receiveUnit .reserved3 flags payload cs s

/-- reserved_4 (30_encoding.md R63, R64; 40_framer.md R80). -/
def execReserved4 (flags : BitVec 2) (payload : List Byte) (cs : Byte) (s : State) :
    Host.Outcome State Fault Refusal :=
  receiveUnit .reserved4 flags payload cs s

/-- reserved_5 (30_encoding.md R63, R64; 40_framer.md R80). -/
def execReserved5 (flags : BitVec 2) (payload : List Byte) (cs : Byte) (s : State) :
    Host.Outcome State Fault Refusal :=
  receiveUnit .reserved5 flags payload cs s

/-- ack_and_standby (30_encoding.md R63, R64; 40_framer.md R80). -/
def execAckAndStandby (flags : BitVec 2) (payload : List Byte) (cs : Byte) (s : State) :
    Host.Outcome State Fault Refusal :=
  receiveUnit .ackAndStandby flags payload cs s

/-- ack_and_disconnect (30_encoding.md R63, R64; 40_framer.md R80). -/
def execAckAndDisconnect (flags : BitVec 2) (payload : List Byte) (cs : Byte) (s : State) :
    Host.Outcome State Fault Refusal :=
  receiveUnit .ackAndDisconnect flags payload cs s

/-- acknowledge (30_encoding.md R63, R64; 40_framer.md R80). -/
def execAcknowledge (flags : BitVec 2) (payload : List Byte) (cs : Byte) (s : State) :
    Host.Outcome State Fault Refusal :=
  receiveUnit .acknowledge flags payload cs s

/-- alt_acknowledge (30_encoding.md R63, R64; 40_framer.md R80). -/
def execAltAcknowledge (flags : BitVec 2) (payload : List Byte) (cs : Byte) (s : State) :
    Host.Outcome State Fault Refusal :=
  receiveUnit .altAcknowledge flags payload cs s

/-- reject (30_encoding.md R63, R64; 40_framer.md R80). -/
def execReject (flags : BitVec 2) (payload : List Byte) (cs : Byte) (s : State) :
    Host.Outcome State Fault Refusal :=
  receiveUnit .reject flags payload cs s

/-- alt_reject (30_encoding.md R63, R64; 40_framer.md R80). -/
def execAltReject (flags : BitVec 2) (payload : List Byte) (cs : Byte) (s : State) :
    Host.Outcome State Fault Refusal :=
  receiveUnit .altReject flags payload cs s

/-- control (30_encoding.md R63, R64; 40_framer.md R80). -/
def execControl (flags : BitVec 2) (payload : List Byte) (cs : Byte) (s : State) :
    Host.Outcome State Fault Refusal :=
  receiveUnit .control flags payload cs s

/-- environmental (30_encoding.md R63, R64; 40_framer.md R80). -/
def execEnvironmental (flags : BitVec 2) (payload : List Byte) (cs : Byte) (s : State) :
    Host.Outcome State Fault Refusal :=
  receiveUnit .environmental flags payload cs s

/-- new_event (30_encoding.md R63, R64; 40_framer.md R80). -/
def execNewEvent (flags : BitVec 2) (payload : List Byte) (cs : Byte) (s : State) :
    Host.Outcome State Fault Refusal :=
  receiveUnit .newEvent flags payload cs s

/-- old_event (30_encoding.md R63, R64; 40_framer.md R80). -/
def execOldEvent (flags : BitVec 2) (payload : List Byte) (cs : Byte) (s : State) :
    Host.Outcome State Fault Refusal :=
  receiveUnit .oldEvent flags payload cs s

/-- program (30_encoding.md R63, R64; 40_framer.md R80). -/
def execProgram (flags : BitVec 2) (payload : List Byte) (cs : Byte) (s : State) :
    Host.Outcome State Fault Refusal :=
  receiveUnit .program flags payload cs s

/-- configuration (30_encoding.md R63, R64; 40_framer.md R80). -/
def execConfiguration (flags : BitVec 2) (payload : List Byte) (cs : Byte) (s : State) :
    Host.Outcome State Fault Refusal :=
  receiveUnit .configuration flags payload cs s

/-- remote_login (30_encoding.md R63, R64; 40_framer.md R80). -/
def execRemoteLogin (flags : BitVec 2) (payload : List Byte) (cs : Byte) (s : State) :
    Host.Outcome State Fault Refusal :=
  receiveUnit .remoteLogin flags payload cs s

/-- account_id (30_encoding.md R63, R64; 40_framer.md R80). -/
def execAccountId (flags : BitVec 2) (payload : List Byte) (cs : Byte) (s : State) :
    Host.Outcome State Fault Refusal :=
  receiveUnit .accountId flags payload cs s

/-- origin_id (30_encoding.md R63, R64; 40_framer.md R80). -/
def execOriginId (flags : BitVec 2) (payload : List Byte) (cs : Byte) (s : State) :
    Host.Outcome State Fault Refusal :=
  receiveUnit .originId flags payload cs s

/-- ascii (30_encoding.md R63, R64; 40_framer.md R80). -/
def execAscii (flags : BitVec 2) (payload : List Byte) (cs : Byte) (s : State) :
    Host.Outcome State Fault Refusal :=
  receiveUnit .ascii flags payload cs s

/-- extended (30_encoding.md R63, R64; 40_framer.md R80). -/
def execExtended (flags : BitVec 2) (payload : List Byte) (cs : Byte) (s : State) :
    Host.Outcome State Fault Refusal :=
  receiveUnit .extended flags payload cs s

/-- listen_in (30_encoding.md R63, R64; 40_framer.md R80). -/
def execListenIn (flags : BitVec 2) (payload : List Byte) (cs : Byte) (s : State) :
    Host.Outcome State Fault Refusal :=
  receiveUnit .listenIn flags payload cs s

/-- video_request (30_encoding.md R63, R64; 40_framer.md R80). -/
def execVideoRequest (flags : BitVec 2) (payload : List Byte) (cs : Byte) (s : State) :
    Host.Outcome State Fault Refusal :=
  receiveUnit .videoRequest flags payload cs s

/-- video_frame (30_encoding.md R63, R64; 40_framer.md R80). -/
def execVideoFrame (flags : BitVec 2) (payload : List Byte) (cs : Byte) (s : State) :
    Host.Outcome State Fault Refusal :=
  receiveUnit .videoFrame flags payload cs s

/-- video (30_encoding.md R63, R64; 40_framer.md R80). -/
def execVideo (flags : BitVec 2) (payload : List Byte) (cs : Byte) (s : State) :
    Host.Outcome State Fault Refusal :=
  receiveUnit .video flags payload cs s

/-- BLOCK: a unit with any byte 1 and any checksum byte (30_encoding.md R60, R64; 40_framer.md R80). -/
def execBlock (flags : BitVec 2) (fc : Byte) (payload : List Byte) (cs : Byte) (s : State) :
    Host.Outcome State Fault Refusal :=
  .next (ingestChunk (unitBytes flags fc payload cs) s)

end Sys2Proof.Machine
end

