-- ==== Sys2Proof/Machine/Dispatch.lean ====
section
/-! DEFINITION. One arm per row of opcode_table.json, each one call of its meaning. -/

namespace Sys2Proof.Machine

open Sys2Proof

def exec (i : Instr) (s : State) : Host.Outcome State Fault Refusal :=
  match i with
  -- format command: 30_encoding.md R67
  | .reset => Sys2Proof.Machine.execReset s
  | .ingest x => Sys2Proof.Machine.execIngest x s
  | .csum x => Sys2Proof.Machine.execCsum x s
  | .verify x => Sys2Proof.Machine.execVerify x s
  | .serialize f fc p => Sys2Proof.Machine.execSerialize f fc p s
  | .deserialize x => Sys2Proof.Machine.execDeserialize x s
  | .send f fc p => Sys2Proof.Machine.execSend f fc p s
  | .mkAckStandby => Sys2Proof.Machine.execMkAckStandby s
  | .mkAckDisconnect => Sys2Proof.Machine.execMkAckDisconnect s
  | .mkAck => Sys2Proof.Machine.execMkAck s
  | .mkReject => Sys2Proof.Machine.execMkReject s
  | .mkRemoteLogin => Sys2Proof.Machine.execMkRemoteLogin s
  | .mkConfiguration => Sys2Proof.Machine.execMkConfiguration s
  -- reserved command ops: 30_encoding.md R69
  | .reservedOp7 x => Sys2Proof.Machine.execReservedOp7 x s
  | .reservedOpE x => Sys2Proof.Machine.execReservedOpE x s
  | .reservedOpF x => Sys2Proof.Machine.execReservedOpF x s
  -- format function_code: 30_encoding.md R63
  | .endOfData f p c => Sys2Proof.Machine.execEndOfData f p c s
  | .wait f p c => Sys2Proof.Machine.execWait f p c s
  | .abort f p c => Sys2Proof.Machine.execAbort f p c s
  | .reserved3 f p c => Sys2Proof.Machine.execReserved3 f p c s
  | .reserved4 f p c => Sys2Proof.Machine.execReserved4 f p c s
  | .reserved5 f p c => Sys2Proof.Machine.execReserved5 f p c s
  | .ackAndStandby f p c => Sys2Proof.Machine.execAckAndStandby f p c s
  | .ackAndDisconnect f p c => Sys2Proof.Machine.execAckAndDisconnect f p c s
  | .acknowledge f p c => Sys2Proof.Machine.execAcknowledge f p c s
  | .altAcknowledge f p c => Sys2Proof.Machine.execAltAcknowledge f p c s
  | .reject f p c => Sys2Proof.Machine.execReject f p c s
  | .altReject f p c => Sys2Proof.Machine.execAltReject f p c s
  | .control f p c => Sys2Proof.Machine.execControl f p c s
  | .environmental f p c => Sys2Proof.Machine.execEnvironmental f p c s
  | .newEvent f p c => Sys2Proof.Machine.execNewEvent f p c s
  | .oldEvent f p c => Sys2Proof.Machine.execOldEvent f p c s
  | .program f p c => Sys2Proof.Machine.execProgram f p c s
  | .configuration f p c => Sys2Proof.Machine.execConfiguration f p c s
  | .remoteLogin f p c => Sys2Proof.Machine.execRemoteLogin f p c s
  | .accountId f p c => Sys2Proof.Machine.execAccountId f p c s
  | .originId f p c => Sys2Proof.Machine.execOriginId f p c s
  | .ascii f p c => Sys2Proof.Machine.execAscii f p c s
  | .extended f p c => Sys2Proof.Machine.execExtended f p c s
  | .listenIn f p c => Sys2Proof.Machine.execListenIn f p c s
  | .videoRequest f p c => Sys2Proof.Machine.execVideoRequest f p c s
  | .videoFrame f p c => Sys2Proof.Machine.execVideoFrame f p c s
  | .video f p c => Sys2Proof.Machine.execVideo f p c s
  -- format block: 30_encoding.md R60
  | .block f fc p c => Sys2Proof.Machine.execBlock f fc p c s

end Sys2Proof.Machine
end

