-- ==== Sys2Proof/Machine/Step.lean ====
section
/-! DEFINITION. One step: the next thing the outside does, as one atomic transaction (00_scope.md R6,
20_memory.md R47). -/

namespace Sys2Proof.Machine

open Sys2Proof

/-- One step. With nothing from the outside the block holds its state. A word on the command port is decoded and
executed, or refused by name. -/
def step (s : State) : Host.Outcome State Fault Refusal :=
  match s.input with
  | [] => .next (idle s)
  | .port who word :: rest =>
    match fetch s word with
    | .ok i => exec i (s.issue who rest)
    | .error e => .refused (.undecodable e)
  | .configure c :: rest => configure c { s with input := rest }
  | .grant who :: rest => .next (grantTx who { s with input := rest })

/-- The state whose next step runs the word of a row of opcode_table.json (log entry 5). -/
def State.withFetchWord (s : State) (nbits w : Nat) : State :=
  s.withWord (tableWord nbits w)

end Sys2Proof.Machine
end

