-- ==== Sys2Proof/Machine/Port.lean ====
section
/-! DEFINITION. The byte form in which results and events cross the command port (30_encoding.md R68). -/

namespace Sys2Proof.Machine

open Sys2Proof

/-- The reason byte of `INVALID(reason)`. -/
def reasonByte : InvalidReason → Byte
  | .short => 1
  | .length => 2
  | .badFc => 3
  | .badChecksum => 4

/-- The byte of a Bool result. -/
def boolByte (b : Bool) : Byte :=
  if b then 0x01 else 0x00

/-- The result column of 30_encoding.md R68. -/
def resultBytes : Result → List Byte
  | .block b => 0x00 :: b.bytes
  | .needMore => [0x01]
  | .faultOverrun => [0x02]
  | .checksum c => [c]
  | .verified ok => [boolByte ok]
  | .serialized bytes => 0x00 :: bytes
  | .deserialized b => 0x00 :: b.bytes
  | .invalid r => [0x03, reasonByte r]
  | .sent ok => [boolByte ok]
  | .made b => 0x00 :: b.bytes

/-- The event rows of 30_encoding.md R68. -/
def eventBytes : Event → List Byte
  | .resync => [0x10]
  | .csumFail => [0x11]
  | .notifyReject => [0x12]
  | .tx bytes => 0x13 :: bytes

/-- The result bytes of the last transaction: none for RESET. -/
def State.resultBytes (s : State) : List Byte :=
  match s.result with
  | some r => Sys2Proof.Machine.resultBytes r
  | none => []

/-- The event bytes of the last transaction, in order. -/
def State.eventBytes (s : State) : List Byte :=
  s.events.flatMap Sys2Proof.Machine.eventBytes

end Sys2Proof.Machine
end

