-- ==== Sys2Proof/Machine/Pseudo.lean ====
section
/-! DEFINITION. The pseudo-commands of 30_encoding.md R71 and the host discipline that drains after every chunk
(70_reset_and_hazards.md R144). They are host behaviour: each command in them is a transaction of its own. -/

namespace Sys2Proof.Machine

open Sys2Proof

/-- POLL: INGEST with an empty chunk (30_encoding.md R71). -/
def poll : Instr :=
  .ingest []

/-- The SEND of a Block's fields (30_encoding.md R71). -/
def sendOf (b : Block) : Instr :=
  .send b.flags b.fc b.payload

/-- SEND_ACK and its kin: the MK_* command giving b, then the SEND of b (30_encoding.md R71). An outcome that is not
a next state, or a command that makes no Block, ends the pattern. -/
def sendMade (mk : Instr) (s : State) : Host.Outcome State Fault Refusal :=
  match exec mk s with
  | .next t =>
    match t.result with
    | some (.made b) => exec (sendOf b) t
    | _ => .next t
  | .fault r => .fault r
  | .refused r => .refused r

/-- SEND_ACK (30_encoding.md R71). -/
def sendAck (s : State) : Host.Outcome State Fault Refusal :=
  sendMade .mkAck s

/-- SEND_REJECT (30_encoding.md R71). -/
def sendReject (s : State) : Host.Outcome State Fault Refusal :=
  sendMade .mkReject s

/-- SEND_ACK_STANDBY (30_encoding.md R71). -/
def sendAckStandby (s : State) : Host.Outcome State Fault Refusal :=
  sendMade .mkAckStandby s

/-- SEND_ACK_DISCONNECT (30_encoding.md R71). -/
def sendAckDisconnect (s : State) : Host.Outcome State Fault Refusal :=
  sendMade .mkAckDisconnect s

/-- SEND_REMOTE_LOGIN (30_encoding.md R71). -/
def sendRemoteLogin (s : State) : Host.Outcome State Fault Refusal :=
  sendMade .mkRemoteLogin s

/-- SEND_CONFIGURATION (30_encoding.md R71). -/
def sendConfiguration (s : State) : Host.Outcome State Fault Refusal :=
  sendMade .mkConfiguration s

/-- What the host sees of the framer: events, and the Blocks returned (40_framer.md R96). -/
inductive Seen where
  | event (e : Event)
  | block (b : Block)
  deriving DecidableEq, Repr

/-- What the last command shows: its events in order, then its Block if it returned one. -/
def seen (s : State) : List Seen :=
  s.events.map .event ++
    match s.result with
    | some (.block b) => [.block b]
    | _ => []

/-- One command of the host, and what it shows. A command that answers no next state shows nothing. -/
def hostCommand (i : Instr) (s : State) : List Seen × State :=
  match exec i s with
  | .next t => (seen t, t)
  | _ => ([], s)

/-- DRAIN (30_encoding.md R71): POLL while the previous result was BLOCK, at most `fuel` times. -/
def drain : Nat → State → List Seen × State
  | 0, s => ([], s)
  | fuel + 1, s =>
    match s.result with
    | some (.block _) =>
      let (o, t) := hostCommand poll s
      let (o', u) := drain fuel t
      (o ++ o', u)
    | _ => ([], s)

/-- INGEST a chunk and DRAIN. Each BLOCK takes at least 3 bytes, so one POLL per byte held, and one more, is enough. -/
def ingestAndDrain (chunk : List Byte) (s : State) : List Seen × State :=
  let (o, t) := hostCommand (.ingest chunk) s
  let (o', u) := drain (t.buf.length + 1) t
  (o ++ o', u)

/-- INGEST chunks in order, draining after each. -/
def feed : List (List Byte) → State → List Seen × State
  | [], s => ([], s)
  | chunk :: rest, s =>
    let (o, t) := ingestAndDrain chunk s
    let (o', u) := feed rest t
    (o ++ o', u)

end Sys2Proof.Machine
end

