-- ==== Sys2Proof/Safety.lean ====
section
/-! DEFINITION. What counts as a safe run, and the terms the claims are stated in. -/

namespace Sys2Proof.Safety

open Sys2Proof Sys2Proof.Machine

/-- The three invariants of a Block (10_state.md R25). -/
abbrev ValidBlock (t : FcTable) (b : Block) : Prop :=
  b.payload.length = headerLen b.hdr ∧ b.fc ∈ t.members ∧ b.cs = xorfold 0xFF (b.hdr :: b.fc :: b.payload)

/-- The bytes of one well-formed block: code, exact size and checksum (30_encoding.md R60, R62). -/
abbrev WholeBlock (t : FcTable) (x : List Byte) : Prop :=
  3 ≤ x.length ∧ x.getD 1 0 ∈ t.members ∧ x.length = headerLen (x.getD 0 0) + 3 ∧ xorfold 0x00 x = 0xFF

/-- The Block a transaction returned, if its result carries one. -/
def returnedBlock : Option Result → Option Block
  | some (.block b) => some b
  | some (.deserialized b) => some b
  | some (.made b) => some b
  | _ => none

/-- The invariant of the machine. The buffer is bounded (10_state.md R21). The configuration inputs are legal (R28).
A returned Block satisfies R25. Every block on its way to the TX port, or out on it, is one whole block
(20_memory.md R50). Before the first command the framer is as at power-on (70_reset_and_hazards.md R141). -/
abbrev Inv (s : State) : Prop :=
  s.buf.length ≤ bufCap ∧
  s.cfg.legal ∧
  (∀ b ∈ returnedBlock s.result, ValidBlock s.cfg.fcSet b) ∧
  (∀ q ∈ s.txQueue ++ s.txPort, WholeBlock s.cfg.fcSet q.bytes) ∧
  (s.configClosed = false →
    s.buf = [] ∧ s.faulted = false ∧ s.result = none ∧ s.txQueue = [] ∧ s.txPort = [])

/-- How many bytes the framer dropped in an INGEST, told by its events (40_framer.md R85, R87). -/
def dropCount : List Event → Nat
  | [] => 0
  | .resync :: rest => dropCount rest + 1
  | .csumFail :: rest => dropCount rest + 1
  | _ :: rest => dropCount rest

/-- How many bytes a result took out of the buffer (40_framer.md R88). -/
def takenCount : Option Result → Nat
  | some (.block b) => b.bytes.length
  | _ => 0

/-- The events of one dropped byte: a checksum mismatch, or a function code that is none (60_exceptions.md R122). -/
def dropEvents (c : Config) (mismatch : Bool) : List Event :=
  if mismatch then [.csumFail, .notifyReject, .tx (rejectBlock c).bytes] else [.resync]

/-- The blocks of one requester, in order (20_memory.md R50). -/
def ofRequester (r : Requester) (qs : List TxBlock) : List TxBlock :=
  qs.filter fun q => q.requester = r

/-- The codec's commands (00_scope.md R7). -/
def isCodec : Instr → Bool
  | .csum _ | .verify _ | .serialize _ _ _ | .deserialize _ | .send _ _ _ => true
  | .mkAckStandby | .mkAckDisconnect | .mkAck | .mkReject | .mkRemoteLogin | .mkConfiguration => true
  | _ => false

/-- The chunk an instruction gives the framer: INGEST's operand, or the bytes of a wire unit. -/
def chunkOf (t : FcTable) (i : Instr) : Option (List Byte) :=
  match i with
  | .ingest chunk => some chunk
  | .reset | .csum _ | .verify _ | .serialize _ _ _ | .deserialize _ | .send _ _ _ => none
  | .mkAckStandby | .mkAckDisconnect | .mkAck | .mkReject | .mkRemoteLogin | .mkConfiguration => none
  | .reservedOp7 _ | .reservedOpE _ | .reservedOpF _ => none
  | i =>
    match encode t i with
    | .unit bytes => some bytes
    | .command _ => none

/-- The same state with another framer state (10_state.md R20). -/
def withFramer (buf : List Byte) (faulted : Bool) (s : State) : State :=
  { s with buf := buf, faulted := faulted }

/-- A function on the next state of an outcome. -/
def onNext (f : State → State) : Host.Outcome State Fault Refusal → Host.Outcome State Fault Refusal
  | .next t => .next (f t)
  | .fault r => .fault r
  | .refused r => .refused r

/-- A byte list with bit `j` of byte `i` flipped. -/
def flipBit (i j : Nat) (xs : List Byte) : List Byte :=
  xs.set i (xs.getD i 0 ^^^ (BitVec.ofNat 8 1 <<< j))

end Sys2Proof.Safety
end

