-- ==== Sys2Proof/Certificates/Slice0/Obligations.lean ====
section
/-! DEFINITION. The statements for the provers. -/

open Sys2Proof Sys2Proof.Machine Sys2Proof.Safety

/-! ### Reset and power-on -/

/-- 10_state.md R30. -/
def Obligations.PowerOnAndResetEmptyTheFramer : Prop :=
  (State.reset.buf = [] ∧ State.reset.faulted = false ∧ State.reset.events = []) ∧
  exec .reset State.reset = .next State.reset ∧
  ∀ s : State, ∃ t, exec .reset s = .next t ∧ t.buf = [] ∧ t.faulted = false ∧ t.events = [] ∧ t.cfg = s.cfg

/-- 70_reset_and_hazards.md R140: the whole effect of RESET, that twice is as once, and that no other instruction
clears the fault. -/
def Obligations.ResetAloneClearsTheFault : Prop :=
  (∀ s : State, exec .reset s = .next { s with buf := [], faulted := false, result := none, events := [] }) ∧
  (∀ s t u : State, exec .reset s = .next t → exec .reset t = .next u → u = t) ∧
  (∀ (i : Instr) (s t : State), exec i s = .next t → s.faulted = true → t.faulted = false → i = .reset)

/-! ### INGEST, step by step -/

/-- 40_framer.md R81. -/
def Obligations.FaultedIngestHasNoEffect : Prop :=
  ∀ (chunk : List Byte) (s : State), s.faulted = true →
    exec (.ingest chunk) s = .next { s with result := some .faultOverrun, events := [] }

/-- 40_framer.md R82: the overrun, and that the test is strict. -/
def Obligations.OverrunCheckIsStrict : Prop :=
  ∀ (chunk : List Byte) (s : State), s.faulted = false →
    (132 < s.buf.length + chunk.length →
      exec (.ingest chunk) s = .next { s with faulted := true, result := some .faultOverrun, events := [] }) ∧
    (s.buf.length + chunk.length ≤ 132 →
      ∃ t, exec (.ingest chunk) s = .next t ∧ t.faulted = false ∧ t.result ≠ some .faultOverrun)

/-- 40_framer.md R83: the chunk is appended whole and in order, and an empty chunk appends nothing. -/
def Obligations.IngestAppendsTheChunk : Prop :=
  ∀ (chunk : List Byte) (s : State), s.faulted = false → s.buf.length + chunk.length ≤ 132 →
    exec (.ingest chunk) s = exec (.ingest []) { s with buf := s.buf ++ chunk }

/-- 40_framer.md R84. -/
def Obligations.FewerThanThreeBytesNeedMore : Prop :=
  ∀ (chunk : List Byte) (s : State), s.faulted = false → (s.buf ++ chunk).length < 3 →
    exec (.ingest chunk) s = .next { s with buf := s.buf ++ chunk, result := some .needMore, events := [] }

/-- 40_framer.md R85: one byte is dropped with one resync event, nothing else, and the next pass follows. -/
def Obligations.InvalidFunctionCodeDropsOneByte : Prop :=
  ∀ (chunk : List Byte) (s : State) (h fc x : Byte) (rest : List Byte),
    s.faulted = false → s.buf.length + chunk.length ≤ 132 →
    s.buf ++ chunk = h :: fc :: x :: rest → fc ∉ s.cfg.fcSet.members →
    ∃ u, exec (.ingest []) { s with buf := fc :: x :: rest } = .next u ∧
      exec (.ingest chunk) s = .next { u with events := .resync :: u.events }

/-- 40_framer.md R86. -/
def Obligations.IncompleteBlockWaits : Prop :=
  ∀ (chunk : List Byte) (s : State) (h fc x : Byte) (rest : List Byte),
    s.faulted = false → s.buf.length + chunk.length ≤ 132 →
    s.buf ++ chunk = h :: fc :: x :: rest → fc ∈ s.cfg.fcSet.members →
    (3 ≤ (h &&& 0x3F).toNat + 3 ∧ (h &&& 0x3F).toNat + 3 ≤ 66) ∧
    ((s.buf ++ chunk).length < (h &&& 0x3F).toNat + 3 →
      exec (.ingest chunk) s = .next { s with buf := s.buf ++ chunk, result := some .needMore, events := [] })

/-- 40_framer.md R87: one byte is dropped, the three events in order, the third the serialization of MK_REJECT's
block, and the next pass follows. That the block joins `txQueue` as the framer's, and leaves only on a grant, is the
model's form of the shared TX port (20_memory.md R50; log entry 6). -/
def Obligations.ChecksumMismatchSendsReject : Prop :=
  ∀ (chunk : List Byte) (s : State) (h fc : Byte) (rest : List Byte),
    s.faulted = false → s.buf.length + chunk.length ≤ 132 →
    s.buf ++ chunk = h :: fc :: rest → fc ∈ s.cfg.fcSet.members →
    (h &&& 0x3F).toNat + 3 ≤ (s.buf ++ chunk).length →
    xorfold 0xFF ((s.buf ++ chunk).take ((h &&& 0x3F).toNat + 2)) ≠
      (s.buf ++ chunk).getD ((h &&& 0x3F).toNat + 2) 0 →
    ∃ reject v u, exec .mkReject s = .next v ∧ v.result = some (.made reject) ∧
      (s.cfg.altReject = false → s.cfg.replyFlags = 0 → s.cfg.fcSet = FcTable.default →
        reject.bytes = [0x00, 0x39, 0xC6]) ∧
      exec (.ingest []) { s with
          buf := fc :: rest, txQueue := s.txQueue ++ [⟨.framer, reject.bytes⟩] } = .next u ∧
      exec (.ingest chunk) s =
        .next { u with events := .csumFail :: .notifyReject :: .tx reject.bytes :: u.events }

/-- 40_framer.md R88. -/
def Obligations.MatchingBlockIsExtracted : Prop :=
  ∀ (chunk : List Byte) (s : State) (h fc : Byte) (rest : List Byte),
    s.faulted = false → s.buf.length + chunk.length ≤ 132 →
    s.buf ++ chunk = h :: fc :: rest → fc ∈ s.cfg.fcSet.members →
    (h &&& 0x3F).toNat + 3 ≤ (s.buf ++ chunk).length →
    xorfold 0xFF ((s.buf ++ chunk).take ((h &&& 0x3F).toNat + 2)) =
      (s.buf ++ chunk).getD ((h &&& 0x3F).toNat + 2) 0 →
    exec (.ingest chunk) s =
      .next { s with
        buf := (s.buf ++ chunk).drop ((h &&& 0x3F).toNat + 3)
        result := some (.block
          ⟨h, fc, rest.take (h &&& 0x3F).toNat, (s.buf ++ chunk).getD ((h &&& 0x3F).toNat + 2) 0⟩)
        events := [] }

/-- 40_framer.md R89: INGEST always returns, every byte is kept, dropped one at a time or taken with a block, and the
drops are at most two fewer than the bytes, so at most 130. -/
def Obligations.IngestAlwaysReturnsWithBoundedDrops : Prop :=
  ∀ (chunk : List Byte) (s : State), ∃ t, exec (.ingest chunk) s = .next t ∧ dropCount t.events ≤ 130 ∧
    (s.faulted = false → s.buf.length + chunk.length ≤ 132 →
      dropCount t.events ≤ s.buf.length + chunk.length - 2 ∧
      t.buf.length + dropCount t.events + takenCount t.result = s.buf.length + chunk.length)

/-- 60_exceptions.md R122: the events of an INGEST are, for each byte dropped, either one resync or the three of a
checksum mismatch, and its result then is NEED_MORE or BLOCK. -/
def Obligations.RecoveredErrorsShowAsEvents : Prop :=
  ∀ (chunk : List Byte) (s : State), ∃ t, exec (.ingest chunk) s = .next t ∧
    ∃ drops : List Bool, t.events = drops.flatMap (dropEvents s.cfg) ∧
      (drops ≠ [] → t.faulted = false ∧ (t.result = some .needMore ∨ ∃ b, t.result = some (.block b)))

/-! ### Properties of the framer -/

/-- 40_framer.md R90. -/
def Obligations.ReturnedBlockIsValid : Prop :=
  ∀ (chunk : List Byte) (s t : State) (b : Block), exec (.ingest chunk) s = .next t → t.result = some (.block b) →
    b.payload.length = (b.hdr &&& 0x3F).toNat ∧ b.fc ∈ s.cfg.fcSet.members ∧
    b.cs = xorfold 0xFF ([b.hdr, b.fc] ++ b.payload) ∧ xorfold 0x00 b.bytes = 0xFF

/-- 40_framer.md R92. -/
def Obligations.PollNeverRaisesOverrun : Prop :=
  decode FcTable.default (.command [0x01, 0x00]) = .ok poll ∧
  (∀ s : State, s.buf.length ≤ 132 →
    ∃ t, exec poll s = .next t ∧ t.faulted = s.faulted ∧ (t.result = some .faultOverrun ↔ s.faulted = true)) ∧
  (∀ (chunk : List Byte) (s t : State), exec (.ingest chunk) s = .next t → t.result = some .needMore →
    exec poll t = .next { t with result := some .needMore, events := [] })

/-- 40_framer.md R93. -/
def Obligations.StateAfterNeedMore : Prop :=
  ∀ (chunk : List Byte) (s t : State), exec (.ingest chunk) s = .next t → t.result = some .needMore →
    (t.buf.length ≤ 2 ∨
      (t.buf.getD 1 0 ∈ t.cfg.fcSet.members ∧ t.buf.length < (t.buf.getD 0 0 &&& 0x3F).toNat + 3)) ∧
    t.buf.length ≤ 65 ∧
    exec poll t = .next { t with events := [] }

/-- 40_framer.md R94, its four clauses. -/
def Obligations.HostDisciplinesAvoidOverrun : Prop :=
  (∀ (s t : State) (chunk : List Byte),
    (exec .reset s = .next t ∨ ∃ c, exec (.ingest c) s = .next t ∧ t.result = some .needMore) →
    chunk.length ≤ 67 →
    ∃ u, exec (.ingest chunk) t = .next u ∧ u.faulted = false ∧ u.result ≠ some .faultOverrun) ∧
  (∀ (s : State) (b : Byte), s.faulted = false → s.buf.length ≤ 65 →
    ∃ t, exec (.ingest [b]) s = .next t ∧ t.faulted = false ∧ t.result ≠ some .faultOverrun ∧
      t.buf.length ≤ 65) ∧
  (∀ (s : State) (bytes : List Byte), s.faulted = false → s.buf.length ≤ 65 →
    (bytes.foldl (fun s b => (hostCommand (.ingest [b]) s).2) s).faulted = false ∧
    (bytes.foldl (fun s b => (hostCommand (.ingest [b]) s).2) s).buf.length ≤ 65) ∧
  (∀ (s : State) (chunk : List Byte), 132 < chunk.length →
    ∃ t, exec (.ingest chunk) s = .next t ∧ t.faulted = true ∧ t.result = some .faultOverrun) ∧
  (∀ (s t : State) (c chunk : List Byte), exec (.ingest c) s = .next t → t.result = some .needMore →
    t.buf.length = 65 → chunk.length = 68 →
    ∃ u, exec (.ingest chunk) t = .next u ∧ u.faulted = true ∧ u.result = some .faultOverrun)

/-- 40_framer.md R95: a well-formed block at the front is returned, and exactly its bytes are consumed. -/
def Obligations.OneWellFormedBlockPerCall : Prop :=
  ∀ (chunk : List Byte) (s : State) (b : Block) (rest : List Byte),
    s.faulted = false → s.buf.length + chunk.length ≤ 132 →
    ValidBlock s.cfg.fcSet b → s.buf ++ chunk = b.bytes ++ rest →
    b.bytes.length = (b.hdr &&& 0x3F).toNat + 3 ∧
    exec (.ingest chunk) s = .next { s with buf := rest, result := some (.block b), events := [] }

/-- 40_framer.md R96: every cut of a stream shows the same blocks and events and leaves the same buffer, if the host
drains after every chunk, no INGEST overruns, and the buffer at the start is drained too. -/
def Obligations.StreamingEquivalence : Prop :=
  ∀ (s : State) (cut cut' : List (List Byte)),
    exec poll s = .next { s with result := some .needMore, events := [] } →
    cut.flatten = cut'.flatten →
    (feed cut s).2.faulted = false → (feed cut' s).2.faulted = false →
    (feed cut s).1 = (feed cut' s).1 ∧ (feed cut s).2.buf = (feed cut' s).2.buf

/-- 40_framer.md R97: a flipped bit in a payload byte or the checksum byte makes the first pass take the checksum path
once. That the Reject joins `txQueue` as the framer's is the model's form of the shared TX port (20_memory.md R50; log
entry 6). -/
def Obligations.SingleBitFlipIsDetected : Prop :=
  ∀ (s : State) (b : Block) (rest : List Byte) (i j : Nat),
    s.faulted = false → s.buf.length ≤ 132 → ValidBlock s.cfg.fcSet b →
    2 ≤ i → i < b.bytes.length → j < 8 → s.buf = flipBit i j b.bytes ++ rest →
    ∃ u, exec poll { s with
          buf := s.buf.drop 1, txQueue := s.txQueue ++ [⟨.framer, (rejectBlock s.cfg).bytes⟩] } = .next u ∧
      exec poll s =
        .next { u with events := .csumFail :: .notifyReject :: .tx (rejectBlock s.cfg).bytes :: u.events }

/-- 40_framer.md R98: a corruption that keeps every bit column's parity, two flips of one column in any two bytes among
them, is returned as good. The premises that the length field is kept and the function code valid come from R97 and
R85: without them the framer takes another size, or drops a byte. -/
def Obligations.EvenColumnCorruptionIsAccepted : Prop :=
  (∀ (s : State) (b b' : Block) (rest : List Byte),
    s.faulted = false → s.buf.length ≤ 132 → ValidBlock s.cfg.fcSet b →
    b'.hdr &&& 0x3F = b.hdr &&& 0x3F → b'.fc ∈ s.cfg.fcSet.members → b'.payload.length = b.payload.length →
    xorfold 0x00 b'.bytes = xorfold 0x00 b.bytes → s.buf = b'.bytes ++ rest →
    exec poll s = .next { s with buf := rest, result := some (.block b'), events := [] }) ∧
  (∀ (s : State) (b : Block) (x rest : List Byte) (i k j : Nat),
    s.faulted = false → s.buf.length ≤ 132 → ValidBlock s.cfg.fcSet b →
    i < b.bytes.length → k < b.bytes.length → i ≠ k → j < 8 → x = flipBit k j (flipBit i j b.bytes) →
    x.getD 0 0 &&& 0x3F = b.hdr &&& 0x3F → x.getD 1 0 ∈ s.cfg.fcSet.members → s.buf = x ++ rest →
    ∃ b', b'.bytes = x ∧ exec poll s = .next { s with buf := rest, result := some (.block b'), events := [] })

/-! ### The codec -/

/-- 30_encoding.md R62, 41_codec.md R100: CSUM returns the fold, bit i of which is the complement of column i. -/
def Obligations.CsumIsTheColumnParity : Prop :=
  ∀ (x : List Byte) (s : State),
    exec (.csum x) s = .next { s with result := some (.checksum (xorfold 0xFF x)), events := [] } ∧
    ∀ i, i < 8 → (xorfold 0xFF x).getLsbD i = !(x.foldl (fun acc b => acc ^^ b.getLsbD i) false)

/-- 41_codec.md R100, R112: the order of the bytes does not matter, and the same byte twice cancels. -/
def Obligations.CsumIgnoresOrderAndPairs : Prop :=
  ∀ (x y : List Byte) (b : Byte) (s : State),
    (x.Perm y → exec (.csum x) s = exec (.csum y) s) ∧ exec (.csum (x ++ [b, b])) s = exec (.csum x) s

/-- 41_codec.md R101: false on the empty list, else whether the last byte is the CSUM of those before it, which is
whether all of it folds from seed 0 to 0xFF. -/
def Obligations.VerifyComparesTheChecksum : Prop :=
  ∀ s : State, exec (.verify []) s = .next { s with result := some (.verified false), events := [] } ∧
    (∀ (x : List Byte) (c : Byte), exec (.verify (x ++ [c])) s =
      .next { s with result := some (.verified (xorfold 0xFF x == c)), events := [] }) ∧
    (∀ x : List Byte, exec (.verify x) s =
      .next { s with result := some (.verified (xorfold 0x00 x == 0xFF)), events := [] })

/-- 41_codec.md R102: the bytes SERIALIZE returns, field by field, and its two refusals. -/
def Obligations.SerializeLaysOutTheBlock : Prop :=
  ∀ (flags : BitVec 2) (fc : Byte) (payload : List Byte) (s : State),
    (fc ∈ s.cfg.fcSet.members → payload.length ≤ 63 →
      ∃ hdr : Byte, hdr.getLsbD 7 = flags.getLsbD 1 ∧ hdr.getLsbD 6 = flags.getLsbD 0 ∧
        (hdr &&& 0x3F).toNat = payload.length ∧
        exec (.serialize flags fc payload) s =
          .next { s with
            result := some (.serialized
              ([hdr, fc] ++ payload ++ [xorfold 0xFF ([hdr, fc] ++ payload)]))
            events := [] }) ∧
    (fc ∉ s.cfg.fcSet.members → exec (.serialize flags fc payload) s = .refused .invalidFunctionCode) ∧
    (fc ∈ s.cfg.fcSet.members → 63 < payload.length →
      exec (.serialize flags fc payload) s = .refused .payloadTooLong)

/-- 41_codec.md R103: the five answers, the first failing check first. -/
def Obligations.DeserializeChecksInOrder : Prop :=
  ∀ (x : List Byte) (s : State), ∃ r, exec (.deserialize x) s = .next { s with result := some r, events := [] } ∧
    (x.length < 3 → r = .invalid .short) ∧
    (3 ≤ x.length → x.getD 1 0 ∉ s.cfg.fcSet.members → r = .invalid .badFc) ∧
    (3 ≤ x.length → x.getD 1 0 ∈ s.cfg.fcSet.members → x.length ≠ (x.getD 0 0 &&& 0x3F).toNat + 3 →
      r = .invalid .length) ∧
    (3 ≤ x.length → x.getD 1 0 ∈ s.cfg.fcSet.members → x.length = (x.getD 0 0 &&& 0x3F).toNat + 3 →
      xorfold 0xFF x.dropLast ≠ x.getD (x.length - 1) 0 → r = .invalid .badChecksum) ∧
    (3 ≤ x.length → x.getD 1 0 ∈ s.cfg.fcSet.members → x.length = (x.getD 0 0 &&& 0x3F).toNat + 3 →
      xorfold 0xFF x.dropLast = x.getD (x.length - 1) 0 →
      r = .deserialized ⟨x.getD 0 0, x.getD 1 0, x.dropLast.drop 2, x.getD (x.length - 1) 0⟩)

/-- 41_codec.md R104, its four clauses, each through the commands. -/
def Obligations.SerializeRoundTrips : Prop :=
  (∀ (flags : BitVec 2) (fc : Byte) (payload : List Byte) (s : State),
    fc ∈ s.cfg.fcSet.members → payload.length ≤ 63 →
    ∃ x b t, exec (.serialize flags fc payload) s = .next t ∧ t.result = some (.serialized x) ∧
      exec (.verify x) s = .next { s with result := some (.verified true), events := [] } ∧
      exec (.deserialize x) s = .next { s with result := some (.deserialized b), events := [] } ∧
      b.hdr = x.getD 0 0 ∧ b.fc = fc ∧ b.payload = payload ∧ b.cs = x.getD (x.length - 1) 0 ∧
      (s.buf = [] → s.faulted = false →
        exec (.ingest x) s = .next { s with buf := [], result := some (.block b), events := [] })) ∧
  (∀ (x : List Byte) (b : Block) (s t : State),
    exec (.deserialize x) s = .next t → t.result = some (.deserialized b) →
    exec (.serialize b.flags b.fc b.payload) s = .next { s with result := some (.serialized x), events := [] })

/-- 41_codec.md R105: SEND emits the serialization for either answer, hands it whole to the TX port, and refuses as
SERIALIZE does. The answer is a free value. That the block waits in `txQueue` for the issuer is the model's form of the
shared TX port (20_memory.md R50; log entry 6), and the counter `draws` that of the draw (00_scope.md R10; log
entry 7). -/
def Obligations.SendEmitsOneWholeBlock : Prop :=
  ∀ (flags : BitVec 2) (fc : Byte) (payload : List Byte) (s : State),
    (fc ∈ s.cfg.fcSet.members → payload.length ≤ 63 →
      ∃ x ok, exec (.serialize flags fc payload) s =
          .next { s with result := some (.serialized x), events := [] } ∧
        exec (.send flags fc payload) s =
          .next { s with
            result := some (.sent ok), events := [.tx x]
            txQueue := s.txQueue ++ [⟨.sender s.issuer, x⟩], draws := s.draws + 1 }) ∧
    (∀ r, exec (.serialize flags fc payload) s = .refused r → exec (.send flags fc payload) s = .refused r)

/-- 41_codec.md R106 to R109: MK_ACK_STANDBY, MK_ACK_DISCONNECT, MK_ACK and MK_REJECT. -/
def Obligations.FixedReplyBlocks : Prop :=
  ∀ (s : State) (hdr : Byte), hdr = s.cfg.replyFlags.setWidth 8 <<< 6 →
    (∀ i code, (i, code) ∈
        [(Instr.mkAckStandby, FunctionCode.ackAndStandby), (Instr.mkAckDisconnect, FunctionCode.ackAndDisconnect),
         (Instr.mkAck, if s.cfg.altAck then FunctionCode.altAcknowledge else FunctionCode.acknowledge),
         (Instr.mkReject, if s.cfg.altReject then FunctionCode.altReject else FunctionCode.reject)] →
      exec i s =
        .next { s with
          result := some (.made
            ⟨hdr, s.cfg.fcSet.byte code, [], xorfold 0xFF [hdr, s.cfg.fcSet.byte code]⟩)
          events := [] })

/-- 41_codec.md R110 and R111: MK_REMOTE_LOGIN and MK_CONFIGURATION. The refusal of a string over 63 bytes is of
60_exceptions.md R123 and 70_reset_and_hazards.md R142, as an outcome that ends the run (log entry 8), and only a state
with illegal configuration inputs takes it. -/
def Obligations.StringReplyBlocks : Prop :=
  ∀ (s : State) (i : Instr) (code : FunctionCode) (str : List Byte), (i, code, str) ∈
      [(Instr.mkRemoteLogin, FunctionCode.remoteLogin, s.cfg.accessCode),
       (Instr.mkConfiguration, FunctionCode.configuration, s.cfg.capability)] →
    (str.length ≤ 63 → ∀ hdr : Byte, hdr = (s.cfg.replyFlags.setWidth 8 <<< 6) ||| BitVec.ofNat 8 str.length →
      exec i s =
        .next { s with
          result := some (.made
            ⟨hdr, s.cfg.fcSet.byte code, str, xorfold 0xFF ([hdr, s.cfg.fcSet.byte code] ++ str)⟩)
          events := [] }) ∧
    (63 < str.length → exec i s = .refused .configurationTooLong)

/-- 60_exceptions.md R121, 20_memory.md R48: a codec command neither reads nor writes the framer's state. -/
def Obligations.CodecIgnoresFramerState : Prop :=
  ∀ (i : Instr) (s : State) (buf : List Byte) (faulted : Bool), isCodec i = true →
    exec i (withFramer buf faulted s) = onNext (withFramer buf faulted) (exec i s)

/-! ### The whole machine -/

/-- 20_memory.md R48, 00_scope.md R9: what no instruction changes, who may change the framer's state, and which
codec commands have no effect but their result. -/
def Obligations.SideEffectsOfEveryInstruction : Prop :=
  ∀ (i : Instr) (s t : State), exec i s = .next t →
    t.cfg = s.cfg ∧ t.configClosed = s.configClosed ∧ t.input = s.input ∧ t.issuer = s.issuer ∧
    t.txPort = s.txPort ∧
    (i ≠ .reset → chunkOf s.cfg.fcSet i = none → t.buf = s.buf ∧ t.faulted = s.faulted) ∧
    (isCodec i = true → (∀ f c p, i ≠ .send f c p) →
      t = { s with result := t.result, events := [] }) ∧
    (t.draws = s.draws ∨ ∃ f c p, i = .send f c p)

/-- 60_exceptions.md R120: the fault is raised only by a chunk that would overfill the buffer, it writes `faulted` and
nothing else, and its code on the port is 0x02. -/
def Obligations.BufferOverrunCauseAndEffect : Prop :=
  (∀ (i : Instr) (s t : State), exec i s = .next t → s.faulted = false → t.faulted = true →
    (∃ chunk, chunkOf s.cfg.fcSet i = some chunk ∧ 132 < s.buf.length + chunk.length) ∧
    t = { s with faulted := true, result := some .faultOverrun, events := [] }) ∧
  (∀ s : State, s.result = some .faultOverrun → s.resultBytes = [0x02])

/-- The invariant of the machine holds at reset. -/
def Obligations.ResetMeetsTheInvariant : Prop :=
  Safety.Inv State.reset

/-- Every step keeps the invariant: the bounded buffer (10_state.md R21), legal configuration inputs (R28), valid
returned Blocks (R25), whole blocks on the TX port (20_memory.md R50), and a power-on framer before the first
command. -/
def Obligations.EveryStepKeepsTheInvariant : Prop :=
  ∀ s t : State, Safety.Inv s → step s = .next t → Safety.Inv t

/-- 20_memory.md R50: the blocks of one requester leave in its order, blocks out on the port stay as they left, and
only a transaction's own EV_TX events submit blocks. -/
def Obligations.TxPortKeepsEachRequestersOrder : Prop :=
  ∀ s t : State, step s = .next t →
    s.txPort <+: t.txPort ∧
    ∃ new : List TxBlock,
      (∀ r, ofRequester r (t.txPort ++ t.txQueue) = ofRequester r (s.txPort ++ s.txQueue) ++ ofRequester r new) ∧
      ((∀ (who : Issuer) (word : PortWord) (rest : List Input), s.input ≠ .port who word :: rest) → new = []) ∧
      (∀ (who : Issuer) (word : PortWord) (rest : List Input), s.input = .port who word :: rest →
        new.map TxBlock.bytes = t.events.filterMap (fun e => match e with | .tx x => some x | _ => none) ∧
        ∀ q ∈ new, q.requester = .framer ∨ q.requester = .sender who)

/-- 20_memory.md R50: whichever requester the lock serves next, its oldest waiting block leaves whole, so every
interleaving of requesters is a run. -/
def Obligations.TxLockServesAnyRequester : Prop :=
  ∀ (s : State) (r : Requester) (rest : List Input), s.input = .grant r :: rest →
    (∀ pre q post, s.txQueue = pre ++ q :: post → q.requester = r → (∀ p ∈ pre, p.requester ≠ r) →
      step s = .next { s with input := rest, txQueue := pre ++ post, txPort := s.txPort ++ [q] }) ∧
    ((∀ q ∈ s.txQueue, q.requester ≠ r) → step s = .next { s with input := rest })

/-- 70_reset_and_hazards.md R142, 20_memory.md R52, 60_exceptions.md R123: legal inputs are taken before the first
command, illegal ones are refused, and a change after the first command is refused. -/
def Obligations.ConfigurationIsConstantOnceRunning : Prop :=
  ∀ (s : State) (c : Config) (rest : List Input), s.input = .configure c :: rest →
    (s.configClosed = false → c.legal → step s = .next { s with input := rest, cfg := c }) ∧
    (s.configClosed = false → ¬ c.fcSet.distinct → step s = .refused .functionCodesNotDistinct) ∧
    (s.configClosed = false → c.fcSet.distinct → 63 < c.accessCode.length ∨ 63 < c.capability.length →
      step s = .refused .configurationTooLong) ∧
    (s.configClosed = true → c ≠ s.cfg → step s = .refused .configurationChanged) ∧
    (s.configClosed = true → c = s.cfg → step s = .next { s with input := rest })

/-- 60_exceptions.md R133: between commands the block does nothing and holds its state. -/
def Obligations.IdleHoldsTheState : Prop :=
  ∀ s : State, s.input = [] → step s = .next s

/-- A step takes the word on the command port, decodes it with the wired function codes and executes it, the
configuration inputs being constant from then on, and refuses what does not decode. -/
def Obligations.StepRunsTheDecodedInstruction : Prop :=
  ∀ (s : State) (who : Issuer) (word : PortWord) (rest : List Input), s.input = .port who word :: rest →
    (∀ i, decode s.cfg.fcSet word = .ok i →
      step s = exec i { s with input := rest, issuer := who, configClosed := true }) ∧
    (∀ e, decode s.cfg.fcSet word = .error e → step s = .refused (.undecodable e))

/-! ### Encodings -/

/-- 30_encoding.md R69: the reserved ops are refused whatever follows them, and so are an illegal byte 0 and an illegal
flags byte. -/
def Obligations.ReservedAndIllegalWordsAreRefused : Prop :=
  (∀ (s : State) (x : List Byte), exec (.reservedOp7 x) s = .refused (.reservedOp 0x7) ∧
    exec (.reservedOpE x) s = .refused (.reservedOp 0xE) ∧ exec (.reservedOpF x) s = .refused (.reservedOp 0xF)) ∧
  (∀ (s : State) (who : Issuer) (op : Byte) (bytes : List Byte) (rest : List Input),
      s.input = .port who (.command (op :: bytes)) :: rest →
    (op = 0x07 ∨ op = 0x0E ∨ op = 0x0F → step s = .refused (.reservedOp op.toNat)) ∧
    (op.extractLsb' 4 4 ≠ 0 → step s = .refused (.undecodable .illegalOpByte)) ∧
    (∀ flags tail, op = 0x04 ∨ op = 0x06 → bytes = flags :: tail → flags.extractLsb' 2 6 ≠ 0 →
      ∃ e, step s = .refused (.undecodable e)))

/-- 30_encoding.md R67: a command shorter or longer than its operands need is refused. -/
def Obligations.CommandLengthIsExact : Prop :=
  ∀ (t : FcTable) (i : Instr) (bytes : List Byte), i.wellFormed t = true → encode t i = .command bytes →
    (∀ x, i ≠ .reservedOp7 x ∧ i ≠ .reservedOpE x ∧ i ≠ .reservedOpF x) →
    (∀ a b, a ++ b = bytes → b ≠ [] → decodeCommand a = .error .commandTooShort) ∧
    (∀ x, x ≠ [] → decodeCommand (bytes ++ x) = .error .commandTooLong)

/-- Decoding an encoded well-formed instruction gives it back, for every instruction and every FC_SET. -/
def Obligations.DecodeEncodeGivesBackTheInstruction : Prop :=
  ∀ (t : FcTable) (i : Instr), t.distinct → i.wellFormed t = true → decode t (encode t i) = .ok i

/-- A command's bytes have one meaning: the encoder gives back the bytes it was decoded from. -/
def Obligations.EncodeDecodeGivesBackTheCommand : Prop :=
  ∀ (t : FcTable) (bytes : List Byte) (i : Instr), decodeCommand bytes = .ok i → encode t i = .command bytes

/-- Words written out from the spec's tables and vectors (30_encoding.md R67, 95_test_vectors.md) decode to the
instructions they stand for. -/
def Obligations.WordsOfTheSpecDecode : Prop :=
  decode FcTable.default (.command [0x00]) = .ok .reset ∧
  decode FcTable.default (.command [0x01, 0x07, 0x44, 0x23, 0x31, 0x32, 0x33, 0x34, 0x9C]) =
    .ok (.ingest [0x44, 0x23, 0x31, 0x32, 0x33, 0x34, 0x9C]) ∧
  decode FcTable.default (.command [0x06, 0x00, 0x3F, 0x04, 0x31, 0x32, 0x33, 0x34]) =
    .ok (.send 0 0x3F [0x31, 0x32, 0x33, 0x34]) ∧
  decode FcTable.default (.command [0x0B]) = .ok .mkReject ∧
  decode FcTable.default (.command [0x07]) = .ok (.reservedOp7 []) ∧
  decode FcTable.default (.unit [0x44, 0x23, 0x31, 0x32, 0x33, 0x34, 0x9C]) =
    .ok (.accountId 1 [0x31, 0x32, 0x33, 0x34] 0x9C)

/-- 30_encoding.md R64: the reserved codes and every other named code are members, and with 27 distinct bytes each of
the other 229 byte values is invalid at offset 1. -/
def Obligations.FunctionCodeMembership : Prop :=
  ∀ t : FcTable, t.distinct →
    (∀ code, t.byte code ∈ t.members) ∧
    ((List.range 256).filter fun n => BitVec.ofNat 8 n ∉ t.members).length = 229 ∧
    (∀ (s : State) (fc : Byte), s.cfg.fcSet = t → s.faulted = false → s.buf = [] → fc ∉ t.members →
      ∀ flags payload cs, payload.length ≤ 63 →
        ∃ u, exec (.block flags fc payload cs) s = .next u ∧ u.events.head? = some .resync) ∧
    (∀ (s : State) (fc : Byte), s.cfg.fcSet = t → fc ∉ t.members → ∀ flags payload,
      exec (.serialize flags fc payload) s = .refused .invalidFunctionCode ∧
      exec (.send flags fc payload) s = .refused .invalidFunctionCode)

/-- 30_encoding.md R68: the byte form of every result and every event. -/
def Obligations.PortCodes : Prop :=
  ∀ s : State,
    (s.result = none → s.resultBytes = []) ∧
    (s.result = some .needMore → s.resultBytes = [0x01]) ∧
    (s.result = some .faultOverrun → s.resultBytes = [0x02]) ∧
    (∀ b, s.result = some (.block b) ∨ s.result = some (.deserialized b) ∨ s.result = some (.made b) →
      s.resultBytes = [0x00, b.hdr, b.fc] ++ b.payload ++ [b.cs]) ∧
    (∀ c, s.result = some (.checksum c) → s.resultBytes = [c]) ∧
    (∀ ok, s.result = some (.verified ok) ∨ s.result = some (.sent ok) →
      s.resultBytes = [if ok then 0x01 else 0x00]) ∧
    (∀ x, s.result = some (.serialized x) → s.resultBytes = 0x00 :: x) ∧
    (s.result = some (.invalid .short) → s.resultBytes = [0x03, 1]) ∧
    (s.result = some (.invalid .length) → s.resultBytes = [0x03, 2]) ∧
    (s.result = some (.invalid .badFc) → s.resultBytes = [0x03, 3]) ∧
    (s.result = some (.invalid .badChecksum) → s.resultBytes = [0x03, 4]) ∧
    (s.events = [] → s.eventBytes = []) ∧
    (∀ e rest x, s.events = e :: rest →
      (e = .resync → s.eventBytes = 0x10 :: { s with events := rest }.eventBytes) ∧
      (e = .csumFail → s.eventBytes = 0x11 :: { s with events := rest }.eventBytes) ∧
      (e = .notifyReject → s.eventBytes = 0x12 :: { s with events := rest }.eventBytes) ∧
      (e = .tx x → s.eventBytes = 0x13 :: (x ++ { s with events := rest }.eventBytes)))

/-- 10_state.md R25, 30_encoding.md R68: the port bytes of a Block that INGEST, DESERIALIZE or an MK_* command
returned are 0x00 and then bytes that DESERIALIZE takes back to that Block. -/
def Obligations.ReturnedBlockBytesDeserialize : Prop :=
  ∀ (i : Instr) (s t : State) (b : Block), exec i s = .next t → returnedBlock t.result = some b →
    ∃ x, t.resultBytes = 0x00 :: x ∧
      exec (.deserialize x) t = .next { t with result := some (.deserialized b), events := [] }

/-! ### Wire units (log entry 1) -/

/-- A wire unit of any of the 27 function codes, and the general unit, is the INGEST of its bytes in the order of
20_memory.md R43, and so always answers a next state. That a row of the table's function_code or block format is
executed so is the model's choice: log entry 1. -/
def Obligations.WireUnitsAreIngests : Prop :=
  (∀ (code : FunctionCode) (flags : BitVec 2) (payload : List Byte) (cs : Byte) (s : State), payload.length ≤ 63 →
    ∃ hdr : Byte, headerFlags hdr = flags ∧ (hdr &&& 0x3F).toNat = payload.length ∧
      exec (Instr.ofCode code flags payload cs) s =
        exec (.ingest ([hdr, s.cfg.fcSet.byte code] ++ payload ++ [cs])) s ∧
      ∃ t, exec (Instr.ofCode code flags payload cs) s = .next t) ∧
  (∀ (fc : Byte) (flags : BitVec 2) (payload : List Byte) (cs : Byte) (s : State), payload.length ≤ 63 →
    ∃ hdr : Byte, headerFlags hdr = flags ∧ (hdr &&& 0x3F).toNat = payload.length ∧
      exec (.block flags fc payload cs) s = exec (.ingest ([hdr, fc] ++ payload ++ [cs])) s ∧
      ∃ t, exec (.block flags fc payload cs) s = .next t)

/-- Each of the 27 function codes, the three reserved ones too, and the general unit with a member code: with the right
checksum byte the unit is returned as one Block with no event by an empty framer (30_encoding.md R64, 40_framer.md
R95). That a row is executed as the INGEST of its unit is the model's choice: log entry 1. -/
def Obligations.WellFormedUnitsAreReturned : Prop :=
  ∀ (flags : BitVec 2) (payload : List Byte) (s : State), payload.length ≤ 63 → s.faulted = false → s.buf = [] →
    (∀ code, ∃ b, b.flags = flags ∧ b.len = payload.length ∧ b.fc = s.cfg.fcSet.byte code ∧
      b.payload = payload ∧
      exec (Instr.ofCode code flags payload (xorfold 0xFF (b.hdr :: b.fc :: b.payload))) s =
        .next { s with result := some (.block b), events := [] }) ∧
    (∀ fc, fc ∈ s.cfg.fcSet.members → ∃ b, b.flags = flags ∧ b.len = payload.length ∧ b.fc = fc ∧
      b.payload = payload ∧
      exec (.block flags fc payload (xorfold 0xFF (b.hdr :: b.fc :: b.payload))) s =
        .next { s with result := some (.block b), events := [] })

/-! ### Pseudo-commands -/

/-- 30_encoding.md R71, 41_codec.md R105: each SEND_* sends the Block its MK_* command makes, with legal configuration
inputs. That the block waits in `txQueue` for the issuer is the model's form of the shared TX port (20_memory.md R50;
log entry 6), and the counter `draws` that of the draw (log entry 7). -/
def Obligations.SendPseudoCommandsSendTheMadeBlock : Prop :=
  ∀ (s : State) (mk : Instr), s.cfg.legal →
    mk ∈ [Instr.mkAckStandby, .mkAckDisconnect, .mkAck, .mkReject, .mkRemoteLogin, .mkConfiguration] →
    ∃ b ok, exec mk s = .next { s with result := some (.made b), events := [] } ∧
      sendMade mk s = .next { s with
        result := some (.sent ok), events := [.tx b.bytes]
        txQueue := s.txQueue ++ [⟨.sender s.issuer, b.bytes⟩], draws := s.draws + 1 }
end

