-- ==== Sys2Proof/Laws/Bytes.lean ====
section
/-! SUPPORT. The laws of the byte-list primitives, of the header's fields and of the block as bytes. -/

namespace Sys2Proof.Laws

open Sys2Proof Sys2Proof.Machine

/-! ### xorfold -/

@[simp] theorem xorfold_nil (s : Byte) : xorfold s [] = s := rfl

@[simp] theorem xorfold_cons (s x : Byte) (xs : List Byte) : xorfold s (x :: xs) = xorfold (s ^^^ x) xs := rfl

theorem xorfold_append (s : Byte) (xs ys : List Byte) : xorfold s (xs ++ ys) = xorfold (xorfold s xs) ys :=
  List.foldl_append

/-- The seed comes out of the fold. -/
theorem xorfold_seed (a b : Byte) (xs : List Byte) : xorfold (a ^^^ b) xs = a ^^^ xorfold b xs := by
  induction xs generalizing b with
  | nil => rfl
  | cons x xs ih => simp only [xorfold_cons, BitVec.xor_assoc, ih]

/-- Bit i of the fold is bit i of the seed against the parity of that column. -/
theorem xorfold_getLsbD (s : Byte) (xs : List Byte) (i : Nat) :
    (xorfold s xs).getLsbD i = xs.foldl (fun acc b => acc ^^ b.getLsbD i) (s.getLsbD i) := by
  induction xs generalizing s with
  | nil => rfl
  | cons x xs ih => simp only [xorfold_cons, ih, List.foldl_cons, BitVec.getLsbD_xor]

/-- A checksum byte closes the fold: a byte string ends in its checksum exactly when all of it folds to 0xFF. -/
theorem checksum_closes (xs : List Byte) (c : Byte) : checksum xs = c ↔ xorfold 0x00 (xs ++ [c]) = 0xFF := by
  have h : checksum xs = 0xFF ^^^ xorfold 0x00 xs := by
    rw [← xorfold_seed]; rfl
  rw [h, xorfold_append, xorfold_cons, xorfold_nil]
  generalize xorfold 0x00 xs = a
  constructor
  · intro e; rw [← e, BitVec.xor_comm 0xFF a, ← BitVec.xor_assoc, BitVec.xor_self, BitVec.zero_xor]
  · intro e; rw [← e, BitVec.xor_comm a c, BitVec.xor_assoc, BitVec.xor_self, BitVec.xor_zero]

/-! ### The header's fields -/

theorem headerLen_eq (h : Byte) : headerLen h = h.toNat % 64 := by
  unfold headerLen lenMask
  rw [BitVec.toNat_and]
  exact Nat.and_two_pow_sub_one_eq_mod h.toNat 6

theorem headerLen_le (h : Byte) : headerLen h ≤ 63 := by
  rw [headerLen_eq]; omega

theorem headerByte_toNat (flags : BitVec 2) (n : Nat) : (headerByte flags n).toNat = flags.toNat * 64 + n % 64 := by
  unfold headerByte
  rw [BitVec.toNat_append, BitVec.toNat_ofNat, Nat.shiftLeft_eq]
  have h := Nat.two_pow_add_eq_or_of_lt (i := 6) (b := n % 2 ^ 6) (Nat.mod_lt _ (by decide)) flags.toNat
  rw [Nat.mul_comm flags.toNat, ← h]

theorem headerLen_headerByte (flags : BitVec 2) {n : Nat} (h : n ≤ 63) : headerLen (headerByte flags n) = n := by
  rw [headerLen_eq, headerByte_toNat]; omega

theorem headerFlags_toNat (h : Byte) : (headerFlags h).toNat = h.toNat / 64 := by
  unfold headerFlags
  rw [BitVec.extractLsb'_toNat, Nat.shiftRight_eq_div_pow]
  have := h.isLt
  omega

@[simp] theorem headerFlags_headerByte (flags : BitVec 2) (n : Nat) : headerFlags (headerByte flags n) = flags := by
  apply BitVec.eq_of_toNat_eq
  rw [headerFlags_toNat, headerByte_toNat]; omega

@[simp] theorem headerByte_fields (h : Byte) : headerByte (headerFlags h) (headerLen h) = h := by
  apply BitVec.eq_of_toNat_eq
  rw [headerByte_toNat, headerFlags_toNat, headerLen_eq]; omega

theorem blockSize_eq (h : Byte) : blockSize h = headerLen h + 3 := rfl

theorem blockSize_le (h : Byte) : blockSize h ≤ 66 := by
  have := headerLen_le h; rw [blockSize_eq]; omega

/-! ### Blocks and their bytes -/

@[simp] theorem bytes_length (b : Block) : b.bytes.length = b.payload.length + 3 := by
  simp [Block.bytes]

/-- The bytes before a Block's checksum byte. -/
theorem slice_bytes (b : Block) (rest : List Byte) :
    slice 0 (b.payload.length + 2) (b.bytes ++ rest) = b.hdr :: b.fc :: b.payload := by
  simp [slice, Block.bytes]

theorem getD_checksum (b : Block) (rest : List Byte) : (b.bytes ++ rest).getD (b.payload.length + 2) 0 = b.cs := by
  simp [Block.bytes]

/-- The checksum test on a Block's bytes, whatever follows them. -/
theorem checksumMatches_bytes (b : Block) (rest : List Byte) :
    checksumMatches (b.payload.length + 3) (b.bytes ++ rest) = (checksum (b.hdr :: b.fc :: b.payload) == b.cs) := by
  unfold checksumMatches
  rw [show b.payload.length + 3 - 1 = b.payload.length + 2 from rfl, slice_bytes, getD_checksum]

/-- A Block is read back from its bytes. -/
theorem blockAt_bytes (b : Block) (rest : List Byte) : blockAt (b.payload.length + 3) (b.bytes ++ rest) = b := by
  obtain ⟨h, f, p, c⟩ := b
  simp [blockAt, slice, Block.bytes]

/-- Three bytes or more, taken apart as a Block. -/
theorem bytes_blockAt {n : Nat} {xs : List Byte} (h3 : 3 ≤ n) (hn : n ≤ xs.length) :
    (blockAt n xs).bytes = xs.take n ∧ (blockAt n xs).payload.length = n - 3 := by
  obtain ⟨k, rfl⟩ : ∃ k, n = k + 3 := ⟨n - 3, by omega⟩
  match xs with
  | h :: f :: x :: rest =>
    simp only [List.length_cons] at hn
    constructor
    · simp only [blockAt, Block.bytes, slice, List.getD_cons_zero, List.getD_cons_succ, List.take_succ_cons,
        List.cons_append, List.cons.injEq, true_and]
      change List.take k (x :: rest) ++ [(x :: rest).getD k 0] = List.take (k + 1) (x :: rest)
      rw [List.take_succ_eq_append_getElem (by simp; omega), List.getD_eq_getElem _ _ (by simp; omega)]
    · simp [blockAt, slice]; omega
  | [] => simp at hn
  | [_] => simp at hn
  | [_, _] => simp at hn

@[simp] theorem makeBlock_hdr (f : BitVec 2) (fc : Byte) (p : List Byte) :
    (makeBlock f fc p).hdr = headerByte f p.length := rfl

@[simp] theorem makeBlock_fc (f : BitVec 2) (fc : Byte) (p : List Byte) : (makeBlock f fc p).fc = fc := rfl

@[simp] theorem makeBlock_payload (f : BitVec 2) (fc : Byte) (p : List Byte) : (makeBlock f fc p).payload = p := rfl

@[simp] theorem makeBlock_cs (f : BitVec 2) (fc : Byte) (p : List Byte) :
    (makeBlock f fc p).cs = checksum (headerByte f p.length :: fc :: p) := rfl

end Sys2Proof.Laws
end

