-- ==== Sys2Proof/Laws/State.lean ====
section
/-! SUPPORT. One lemma per field per update of the state, so that no proof unfolds an update. -/

namespace Sys2Proof.Laws

open Sys2Proof Sys2Proof.Machine

section

variable (s : State) (r : Option Result) (ev : List Event)

@[simp] theorem answer_buf : (s.answer r ev).buf = s.buf := rfl
@[simp] theorem answer_faulted : (s.answer r ev).faulted = s.faulted := rfl
@[simp] theorem answer_cfg : (s.answer r ev).cfg = s.cfg := rfl
@[simp] theorem answer_configClosed : (s.answer r ev).configClosed = s.configClosed := rfl
@[simp] theorem answer_result : (s.answer r ev).result = r := rfl
@[simp] theorem answer_events : (s.answer r ev).events = ev := rfl
@[simp] theorem answer_txQueue : (s.answer r ev).txQueue = s.txQueue := rfl
@[simp] theorem answer_txPort : (s.answer r ev).txPort = s.txPort := rfl
@[simp] theorem answer_issuer : (s.answer r ev).issuer = s.issuer := rfl
@[simp] theorem answer_draws : (s.answer r ev).draws = s.draws := rfl
@[simp] theorem answer_input : (s.answer r ev).input = s.input := rfl

end

section

variable (s : State) (who : Requester) (ev : List Event)

@[simp] theorem submit_buf : (s.submit who ev).buf = s.buf := rfl
@[simp] theorem submit_faulted : (s.submit who ev).faulted = s.faulted := rfl
@[simp] theorem submit_cfg : (s.submit who ev).cfg = s.cfg := rfl
@[simp] theorem submit_configClosed : (s.submit who ev).configClosed = s.configClosed := rfl
@[simp] theorem submit_result : (s.submit who ev).result = s.result := rfl
@[simp] theorem submit_events : (s.submit who ev).events = s.events := rfl
@[simp] theorem submit_txQueue : (s.submit who ev).txQueue = s.txQueue ++ (txBytes ev).map (TxBlock.mk who) := rfl
@[simp] theorem submit_txPort : (s.submit who ev).txPort = s.txPort := rfl
@[simp] theorem submit_issuer : (s.submit who ev).issuer = s.issuer := rfl
@[simp] theorem submit_draws : (s.submit who ev).draws = s.draws := rfl
@[simp] theorem submit_input : (s.submit who ev).input = s.input := rfl

end

section

variable (s : State)

@[simp] theorem raiseBufferOverrun_buf : (raiseBufferOverrun s).buf = s.buf := rfl
@[simp] theorem raiseBufferOverrun_faulted : (raiseBufferOverrun s).faulted = true := rfl
@[simp] theorem raiseBufferOverrun_cfg : (raiseBufferOverrun s).cfg = s.cfg := rfl
@[simp] theorem raiseBufferOverrun_configClosed : (raiseBufferOverrun s).configClosed = s.configClosed := rfl
@[simp] theorem raiseBufferOverrun_result : (raiseBufferOverrun s).result = some .faultOverrun := rfl
@[simp] theorem raiseBufferOverrun_events : (raiseBufferOverrun s).events = [] := rfl
@[simp] theorem raiseBufferOverrun_txQueue : (raiseBufferOverrun s).txQueue = s.txQueue := rfl
@[simp] theorem raiseBufferOverrun_txPort : (raiseBufferOverrun s).txPort = s.txPort := rfl
@[simp] theorem raiseBufferOverrun_issuer : (raiseBufferOverrun s).issuer = s.issuer := rfl
@[simp] theorem raiseBufferOverrun_draws : (raiseBufferOverrun s).draws = s.draws := rfl
@[simp] theorem raiseBufferOverrun_input : (raiseBufferOverrun s).input = s.input := rfl

end

section

variable (s : State)

@[simp] theorem clearFramer_buf : (clearFramer s).buf = [] := rfl
@[simp] theorem clearFramer_faulted : (clearFramer s).faulted = false := rfl
@[simp] theorem clearFramer_cfg : (clearFramer s).cfg = s.cfg := rfl
@[simp] theorem clearFramer_configClosed : (clearFramer s).configClosed = s.configClosed := rfl
@[simp] theorem clearFramer_result : (clearFramer s).result = none := rfl
@[simp] theorem clearFramer_events : (clearFramer s).events = [] := rfl
@[simp] theorem clearFramer_txQueue : (clearFramer s).txQueue = s.txQueue := rfl
@[simp] theorem clearFramer_txPort : (clearFramer s).txPort = s.txPort := rfl
@[simp] theorem clearFramer_issuer : (clearFramer s).issuer = s.issuer := rfl
@[simp] theorem clearFramer_draws : (clearFramer s).draws = s.draws := rfl
@[simp] theorem clearFramer_input : (clearFramer s).input = s.input := rfl

end

section

variable (s : State)

@[simp] theorem drawTxResult_buf : (drawTxResult s).2.buf = s.buf := rfl
@[simp] theorem drawTxResult_faulted : (drawTxResult s).2.faulted = s.faulted := rfl
@[simp] theorem drawTxResult_cfg : (drawTxResult s).2.cfg = s.cfg := rfl
@[simp] theorem drawTxResult_configClosed : (drawTxResult s).2.configClosed = s.configClosed := rfl
@[simp] theorem drawTxResult_result : (drawTxResult s).2.result = s.result := rfl
@[simp] theorem drawTxResult_events : (drawTxResult s).2.events = s.events := rfl
@[simp] theorem drawTxResult_txQueue : (drawTxResult s).2.txQueue = s.txQueue := rfl
@[simp] theorem drawTxResult_txPort : (drawTxResult s).2.txPort = s.txPort := rfl
@[simp] theorem drawTxResult_issuer : (drawTxResult s).2.issuer = s.issuer := rfl
@[simp] theorem drawTxResult_draws : (drawTxResult s).2.draws = s.draws + 1 := rfl
@[simp] theorem drawTxResult_input : (drawTxResult s).2.input = s.input := rfl

end

section

variable (s : State) (who : Issuer) (rest : List Input)

@[simp] theorem issue_buf : (s.issue who rest).buf = s.buf := rfl
@[simp] theorem issue_faulted : (s.issue who rest).faulted = s.faulted := rfl
@[simp] theorem issue_cfg : (s.issue who rest).cfg = s.cfg := rfl
@[simp] theorem issue_configClosed : (s.issue who rest).configClosed = true := rfl
@[simp] theorem issue_result : (s.issue who rest).result = s.result := rfl
@[simp] theorem issue_events : (s.issue who rest).events = s.events := rfl
@[simp] theorem issue_txQueue : (s.issue who rest).txQueue = s.txQueue := rfl
@[simp] theorem issue_txPort : (s.issue who rest).txPort = s.txPort := rfl
@[simp] theorem issue_issuer : (s.issue who rest).issuer = who := rfl
@[simp] theorem issue_draws : (s.issue who rest).draws = s.draws := rfl
@[simp] theorem issue_input : (s.issue who rest).input = rest := rfl

end

section

variable (s : State) (word : PortWord)

@[simp] theorem withWord_buf : (s.withWord word).buf = s.buf := rfl
@[simp] theorem withWord_faulted : (s.withWord word).faulted = s.faulted := rfl
@[simp] theorem withWord_cfg : (s.withWord word).cfg = s.cfg := rfl
@[simp] theorem withWord_configClosed : (s.withWord word).configClosed = s.configClosed := rfl
@[simp] theorem withWord_result : (s.withWord word).result = s.result := rfl
@[simp] theorem withWord_events : (s.withWord word).events = s.events := rfl
@[simp] theorem withWord_txQueue : (s.withWord word).txQueue = s.txQueue := rfl
@[simp] theorem withWord_txPort : (s.withWord word).txPort = s.txPort := rfl
@[simp] theorem withWord_issuer : (s.withWord word).issuer = s.issuer := rfl
@[simp] theorem withWord_draws : (s.withWord word).draws = s.draws := rfl
@[simp] theorem withWord_input : (s.withWord word).input = .port .host word :: s.input := rfl

end

/-- The drawn answer is the free value at the counter. -/
@[simp] theorem drawTxResult_answer (s : State) : (drawTxResult s).1 = Config.txAnswer s.draws := rfl

end Sys2Proof.Laws
end

