-- ==== Sys2Proof/Laws/Codec.lean ====
section
/-! SUPPORT. When the codec refuses, and what it does when it does not. -/

namespace Sys2Proof.Laws

open Sys2Proof Sys2Proof.Machine

@[simp] theorem orRefuse_none (o : Host.Outcome State Fault Refusal) : orRefuse none o = o := rfl

@[simp] theorem orRefuse_some (r : Refusal) (o : Host.Outcome State Fault Refusal) :
    orRefuse (some r) o = .refused r := rfl

/-- SERIALIZE's and SEND's three cases (41_codec.md R102). -/
theorem operandRefusal_cases (t : FcTable) (fc : Byte) (p : List Byte) :
    (fc ∉ t.members ∧ operandRefusal t fc p = some .invalidFunctionCode) ∨
    (fc ∈ t.members ∧ maxPayload < p.length ∧ operandRefusal t fc p = some .payloadTooLong) ∨
    (fc ∈ t.members ∧ p.length ≤ maxPayload ∧ operandRefusal t fc p = none) := by
  unfold operandRefusal
  by_cases hm : fc ∈ t.members
  · rcases Nat.lt_or_ge maxPayload p.length with hl | hl
    · exact .inr (.inl ⟨hm, hl, by simp [hm, hl]⟩)
    · exact .inr (.inr ⟨hm, hl, by simp [hm, Nat.not_lt.mpr hl]⟩)
  · exact .inl ⟨hm, by simp [hm]⟩

/-- MK_REMOTE_LOGIN's and MK_CONFIGURATION's two cases (60_exceptions.md R123). -/
theorem stringRefusal_cases (p : List Byte) :
    (maxPayload < p.length ∧ stringRefusal p = some .configurationTooLong) ∨
    (p.length ≤ maxPayload ∧ stringRefusal p = none) := by
  unfold stringRefusal
  rcases Nat.lt_or_ge maxPayload p.length with hl | hl
  · exact .inl ⟨hl, by simp [hl]⟩
  · exact .inr ⟨hl, by simp [Nat.not_lt.mpr hl]⟩

/-- Every name's byte is a member of FC_SET (30_encoding.md R63, R64). -/
theorem byte_mem_members (t : FcTable) (code : FunctionCode) : t.byte code ∈ t.members :=
  List.mem_map.mpr ⟨code, by cases code <;> decide, rfl⟩

/-- A canonical block's length agrees with its header when its payload fits (41_codec.md section 4). -/
theorem replyBlock_len (c : Config) (code : FunctionCode) {p : List Byte} (h : p.length ≤ maxPayload) :
    (replyBlock c code p).payload.length = headerLen (replyBlock c code p).hdr :=
  (headerLen_headerByte c.replyFlags h).symm

/-- What SEND leaves. -/
theorem sendBytes_eq (bytes : List Byte) (s : State) :
    sendBytes bytes s =
      { s with
        result := some (.sent (Config.txAnswer s.draws)), events := [.tx bytes]
        txQueue := s.txQueue ++ [⟨.sender s.issuer, bytes⟩], draws := s.draws + 1 } := rfl

end Sys2Proof.Laws
end

