-- ==== Sys2Proof/Laws/Decode.lean ====
section
/-! SUPPORT. The decoder's operand forms and the names of function codes. -/

namespace Sys2Proof.Laws

open Sys2Proof Sys2Proof.Machine

/-- The three cases of an exact operand count (30_encoding.md R67). -/
theorem decodeExactly_cases (n : Nat) (xs : List Byte) (i : Instr) :
    (xs.length < n ∧ decodeExactly n xs i = .error .commandTooShort) ∨
    (n < xs.length ∧ decodeExactly n xs i = .error .commandTooLong) ∨
    (xs.length = n ∧ decodeExactly n xs i = .ok i) := by
  unfold decodeExactly
  rcases Nat.lt_trichotomy xs.length n with h | h | h
  · exact .inl ⟨h, by simp [h]⟩
  · exact .inr (.inr ⟨h, by simp [h]⟩)
  · exact .inr (.inl ⟨h, by simp [h, Nat.lt_asymm h]⟩)

/-- Every name is in the list of names (30_encoding.md R63). -/
theorem mem_all (code : FunctionCode) : code ∈ FunctionCode.all := by
  cases code <;> decide

/-- Distinct bytes name one code each. -/
theorem byte_injective {t : FcTable} (h : t.distinct) {a b : FunctionCode} (hab : t.byte a = t.byte b) : a = b :=
  List.inj_on_of_nodup_map h (mem_all a) (mem_all b) hab

/-- With distinct bytes, a name's byte is read as that name. -/
theorem nameOf_byte {t : FcTable} (h : t.distinct) (code : FunctionCode) : t.nameOf (t.byte code) = some code := by
  unfold FcTable.nameOf
  cases hf : FunctionCode.all.find? (fun c => t.byte c == t.byte code) with
  | none => simpa using List.find?_eq_none.mp hf code (mem_all code)
  | some c =>
    have hc : t.byte c = t.byte code := by simpa using List.find?_some hf
    rw [byte_injective h hc]

/-- A byte has no name exactly when it is no member of FC_SET. -/
theorem nameOf_eq_none (t : FcTable) (b : Byte) : t.nameOf b = none ↔ b ∉ t.members := by
  simp [FcTable.nameOf, FcTable.members]

theorem byte_of_nameOf {t : FcTable} {b : Byte} {code : FunctionCode} (h : t.nameOf b = some code) :
    t.byte code = b := by
  simpa using List.find?_some h

/-- The shape of a wire unit's bytes. -/
theorem unitBytes_eq (flags : BitVec 2) (fc : Byte) (p : List Byte) (cs : Byte) :
    unitBytes flags fc p cs = headerByte flags p.length :: fc :: (p ++ [cs]) := rfl

end Sys2Proof.Laws
end

