-- ==== Sys2Proof/Laws/Framer.lean ====
section
/-! SUPPORT. What one pass of the framer's loop can find, what the loop does after it, and what INGEST can do. -/

namespace Sys2Proof.Laws

open Sys2Proof Sys2Proof.Machine

/-! ### One pass -/

/-- Everything a pass can find, with the condition of each (60_exceptions.md R125). -/
theorem pass_cases (t : FcTable) (buf : List Byte) :
    (buf.length < 3 ∧ framerPass t buf = .short) ∨
    (3 ≤ buf.length ∧ buf.getD 1 0 ∉ t.members ∧ framerPass t buf = .badFunctionCode) ∨
    (3 ≤ buf.length ∧ buf.getD 1 0 ∈ t.members ∧ buf.length < blockSize (buf.getD 0 0) ∧
      framerPass t buf = .incomplete) ∨
    (blockSize (buf.getD 0 0) ≤ buf.length ∧ buf.getD 1 0 ∈ t.members ∧
      checksumMatches (blockSize (buf.getD 0 0)) buf = false ∧ framerPass t buf = .badChecksum) ∨
    (blockSize (buf.getD 0 0) ≤ buf.length ∧ buf.getD 1 0 ∈ t.members ∧
      checksumMatches (blockSize (buf.getD 0 0)) buf = true ∧
      framerPass t buf = .found (blockSize (buf.getD 0 0))) := by
  match buf with
  | [] => exact .inl ⟨by decide, rfl⟩
  | [_] => exact .inl ⟨by simp, rfl⟩
  | [_, _] => exact .inl ⟨by simp, rfl⟩
  | h :: f :: x :: rest =>
    have h3 : 3 ≤ (h :: f :: x :: rest).length := by simp
    refine .inr ?_
    simp only [List.getD_cons_zero, List.getD_cons_succ]
    by_cases hm : f ∈ t.members
    · refine .inr ?_
      by_cases hl : (h :: f :: x :: rest).length < blockSize h
      · exact .inl ⟨h3, hm, hl, by simp only [framerPass, hm, hl, not_true, if_true, if_false]⟩
      · refine .inr ?_
        cases hc : checksumMatches (blockSize h) (h :: f :: x :: rest)
        · exact .inl ⟨Nat.le_of_not_lt hl, hm, rfl, by
            simp only [framerPass, hm, hl, hc, not_true, if_false, Bool.false_eq_true]⟩
        · exact .inr ⟨Nat.le_of_not_lt hl, hm, rfl, by
            simp only [framerPass, hm, hl, hc, not_true, if_false, if_true]⟩
    · exact .inl ⟨h3, hm, by simp only [framerPass, hm, not_false_eq_true, if_true]⟩

theorem pass_short {t : FcTable} {buf : List Byte} (h : buf.length < 3) : framerPass t buf = .short := by
  match buf with
  | [] => rfl
  | [_] => rfl
  | [_, _] => rfl
  | _ :: _ :: _ :: _ => simp at h; omega

/-- A Block's bytes at the front, with a member of FC_SET and a length that agrees, are tested by their checksum. -/
theorem pass_bytes {t : FcTable} (b : Block) (rest : List Byte) (hf : b.fc ∈ t.members)
    (hl : b.payload.length = headerLen b.hdr) :
    framerPass t (b.bytes ++ rest) =
      if checksum (b.hdr :: b.fc :: b.payload) = b.cs then .found b.bytes.length else .badChecksum := by
  have hsize : blockSize b.hdr = b.payload.length + 3 := by rw [blockSize_eq, hl]
  have hc := checksumMatches_bytes b rest
  have hlen := bytes_length b
  obtain ⟨x, tl, hx⟩ : ∃ x tl, b.payload ++ [b.cs] ++ rest = x :: tl := by
    cases b.payload <;> exact ⟨_, _, rfl⟩
  have hshape : b.bytes ++ rest = b.hdr :: b.fc :: x :: tl := by
    rw [← hx]; simp [Block.bytes]
  have hge : ¬ (b.bytes ++ rest).length < blockSize b.hdr := by
    rw [List.length_append, hlen, hsize]; omega
  rw [hlen]
  rw [hsize] at hge
  rw [hshape] at hge hc ⊢
  rw [framerPass]
  simp only [hf, not_true, if_false, hge, hsize, hc, beq_iff_eq]

/-! ### The loop -/

theorem extract_short (c : Config) {buf : List Byte} (h : buf.length < 3) : extract c buf = ⟨none, buf, []⟩ := by
  cases buf with
  | nil => rfl
  | cons b rest => rw [extract, pass_short h]

theorem extract_badFunctionCode {c : Config} {b : Byte} {rest : List Byte}
    (h : framerPass c.fcSet (b :: rest) = .badFunctionCode) :
    extract c (b :: rest) = (extract c rest).after [.resync] := by
  rw [extract, h]

theorem extract_incomplete {c : Config} {buf : List Byte} (h : framerPass c.fcSet buf = .incomplete) :
    extract c buf = ⟨none, buf, []⟩ := by
  cases buf with
  | nil => rfl
  | cons b rest => rw [extract, h]

theorem extract_badChecksum {c : Config} {b : Byte} {rest : List Byte}
    (h : framerPass c.fcSet (b :: rest) = .badChecksum) :
    extract c (b :: rest) = (extract c rest).after (rejectEvents c) := by
  rw [extract, h]

theorem extract_found {c : Config} {buf : List Byte} {n : Nat} (h : framerPass c.fcSet buf = .found n) :
    extract c buf = ⟨some (blockAt n buf), buf.drop n, []⟩ := by
  cases buf with
  | nil => simp [framerPass] at h
  | cons b rest => rw [extract, h]

/-- The loop only ever takes bytes from the front (20_memory.md R40). -/
theorem extract_buf_suffix (c : Config) (buf : List Byte) : (extract c buf).buf <:+ buf := by
  induction buf with
  | nil => exact List.suffix_refl _
  | cons b rest ih =>
    rw [extract]
    split
    · exact List.suffix_refl _
    · exact ih.trans (List.suffix_cons b rest)
    · exact List.suffix_refl _
    · exact ih.trans (List.suffix_cons b rest)
    · exact List.drop_suffix _ _

/-- A block found takes at least three bytes and at most all, and leaves its own bytes behind in the Block. -/
theorem found_bytes {buf : List Byte} (hl : blockSize (buf.getD 0 0) ≤ buf.length) :
    (blockAt (blockSize (buf.getD 0 0)) buf).bytes = buf.take (blockSize (buf.getD 0 0)) ∧
    (blockAt (blockSize (buf.getD 0 0)) buf).payload.length = headerLen (buf.getD 0 0) := by
  have h := bytes_blockAt (by rw [blockSize_eq]; omega) hl
  exact ⟨h.1, by rw [h.2, blockSize_eq]; omega⟩

theorem extract_buf_length_le (c : Config) (buf : List Byte) : (extract c buf).buf.length ≤ buf.length :=
  (extract_buf_suffix c buf).length_le

@[simp] theorem after_block (ev : List Event) (e : Extraction) : (e.after ev).block = e.block := rfl
@[simp] theorem after_buf (ev : List Event) (e : Extraction) : (e.after ev).buf = e.buf := rfl
@[simp] theorem after_events (ev : List Event) (e : Extraction) : (e.after ev).events = ev ++ e.events := rfl

@[simp] theorem after_result (ev : List Event) (e : Extraction) : (e.after ev).result = e.result := rfl

/-! ### INGEST -/

/-- What INGEST leaves when it runs the loop. -/
def ingested (s : State) (e : Extraction) : State :=
  ({ s with buf := e.buf }.submit .framer e.events).answer (some e.result) e.events

@[simp] theorem ingested_buf (s : State) (e : Extraction) : (ingested s e).buf = e.buf := rfl
@[simp] theorem ingested_faulted (s : State) (e : Extraction) : (ingested s e).faulted = s.faulted := rfl
@[simp] theorem ingested_result (s : State) (e : Extraction) : (ingested s e).result = some e.result := rfl
@[simp] theorem ingested_events (s : State) (e : Extraction) : (ingested s e).events = e.events := rfl
@[simp] theorem ingested_cfg (s : State) (e : Extraction) : (ingested s e).cfg = s.cfg := rfl
@[simp] theorem ingested_txQueue (s : State) (e : Extraction) :
    (ingested s e).txQueue = s.txQueue ++ (txBytes e.events).map (TxBlock.mk .framer) := rfl

/-- INGEST without an event changes the buffer and the answer only. -/
theorem ingested_quiet (s : State) (b : Option Block) (buf : List Byte) :
    ingested s ⟨b, buf, []⟩ =
      { s with buf := buf, result := some (Extraction.result ⟨b, buf, []⟩), events := [] } := by
  simp [ingested, State.submit, State.answer, txBytes]

theorem ingestChunk_faulted {s : State} (h : s.faulted = true) (chunk : List Byte) :
    ingestChunk chunk s = s.answer (some .faultOverrun) [] := by
  rw [ingestChunk, if_pos h]

theorem ingestChunk_overrun {s : State} {chunk : List Byte} (h : s.faulted = false)
    (ho : bufCap < s.buf.length + chunk.length) : ingestChunk chunk s = raiseBufferOverrun s := by
  rw [ingestChunk, if_neg (by simp [h]), if_pos ho]

theorem ingestChunk_runs {s : State} {chunk : List Byte} (h : s.faulted = false)
    (ho : s.buf.length + chunk.length ≤ bufCap) :
    ingestChunk chunk s = ingested s (extract s.cfg (s.buf ++ chunk)) := by
  rw [ingestChunk, if_neg (by simp [h]), if_neg (Nat.not_lt.mpr ho)]; rfl

/-- Everything INGEST can do: nothing when faulted, an overrun, or the loop on the appended buffer. -/
theorem ingestChunk_cases (chunk : List Byte) (s : State) :
    (s.faulted = true ∧ ingestChunk chunk s = s.answer (some .faultOverrun) []) ∨
    (s.faulted = false ∧ bufCap < s.buf.length + chunk.length ∧ ingestChunk chunk s = raiseBufferOverrun s) ∨
    (s.faulted = false ∧ s.buf.length + chunk.length ≤ bufCap ∧
      ingestChunk chunk s = ingested s (extract s.cfg (s.buf ++ chunk))) := by
  cases h : s.faulted
  · rcases Nat.lt_or_ge bufCap (s.buf.length + chunk.length) with ho | ho
    · exact .inr (.inl ⟨rfl, ho, ingestChunk_overrun h ho⟩)
    · exact .inr (.inr ⟨rfl, ho, ingestChunk_runs h ho⟩)
  · exact .inl ⟨rfl, ingestChunk_faulted h chunk⟩

/-! ### The blocks events put on the TX port -/

@[simp] theorem txBytes_append (xs ys : List Event) : txBytes (xs ++ ys) = txBytes xs ++ txBytes ys := by
  induction xs with
  | nil => rfl
  | cons e xs ih => cases e <;> simp [txBytes, ih]

@[simp] theorem txBytes_rejectEvents (c : Config) : txBytes (rejectEvents c) = [(rejectBlock c).bytes] := rfl

end Sys2Proof.Laws
end

