-- ==== Sys2Proof/Laws/Exec.lean ====
section
/-! SUPPORT. What an instruction can do when it answers a next state, said once for all of them. -/

namespace Sys2Proof.Laws

open Sys2Proof Sys2Proof.Machine Sys2Proof.Safety

/-! ### Blocks -/

theorem validBlock_makeBlock {t : FcTable} {fc : Byte} {p : List Byte} (f : BitVec 2) (hm : fc ∈ t.members)
    (hl : p.length ≤ 63) : ValidBlock t (makeBlock f fc p) :=
  ⟨(headerLen_headerByte f hl).symm, hm, rfl⟩

theorem validBlock_replyBlock (c : Config) (code : FunctionCode) {p : List Byte} (hl : p.length ≤ 63) :
    ValidBlock c.fcSet (replyBlock c code p) :=
  validBlock_makeBlock c.replyFlags (byte_mem_members c.fcSet code) hl

/-- All bytes of a valid Block fold from seed 0 to 0xFF (41_codec.md R112). -/
theorem validBlock_fold {t : FcTable} {b : Block} (h : ValidBlock t b) : xorfold 0x00 b.bytes = 0xFF := by
  simpa [Block.bytes] using (checksum_closes (b.hdr :: b.fc :: b.payload) b.cs).mp h.2.2.symm

theorem wholeBlock_of_validBlock {t : FcTable} {b : Block} (h : ValidBlock t b) : WholeBlock t b.bytes := by
  refine ⟨by rw [bytes_length]; omega, h.2.1, ?_, validBlock_fold h⟩
  rw [bytes_length, h.1]; rfl

/-- What DESERIALIZE accepts: the Block is valid and its bytes are the operand. -/
theorem deserializeBytes_ok {t : FcTable} {x : List Byte} {b : Block} (h : deserializeBytes t x = .deserialized b) :
    ValidBlock t b ∧ b.bytes = x := by
  unfold deserializeBytes at h
  split at h
  · next hd fc y rest =>
    split at h
    · cases h
    · next hm =>
      split at h
      · cases h
      · next hl =>
        split at h
        · next hc =>
          cases h
          have hm : fc ∈ t.members := Decidable.not_not.mp hm
          have hl : (hd :: fc :: y :: rest).length = blockSize hd := Decidable.not_not.mp hl
          generalize hx : hd :: fc :: y :: rest = x at *
          have h3 : 3 ≤ x.length := by rw [← hx]; simp
          have hb := bytes_blockAt (xs := x) h3 (Nat.le_refl _)
          have h0 : (blockAt x.length x).hdr = hd := by rw [← hx]; rfl
          have h1 : (blockAt x.length x).fc = fc := by rw [← hx]; rfl
          have hbytes : (blockAt x.length x).bytes = x := by rw [hb.1, List.take_length]
          refine ⟨⟨?_, h1 ▸ hm, ?_⟩, hbytes⟩
          · rw [hb.2, h0, hl, blockSize_eq]; omega
          · have hcs := checksumMatches_bytes (blockAt x.length x) []
            rw [List.append_nil, hbytes, hb.2, show x.length - 3 + 3 = x.length by omega, hc] at hcs
            exact (beq_iff_eq.mp hcs.symm).symm
        · cases h
  · cases h

/-- DESERIALIZE answers `OK` or `INVALID` and nothing else. -/
theorem deserializeBytes_cases (t : FcTable) (x : List Byte) :
    (∃ b, deserializeBytes t x = .deserialized b) ∨ ∃ r, deserializeBytes t x = .invalid r := by
  unfold deserializeBytes
  split
  · split
    · exact .inr ⟨_, rfl⟩
    · split
      · exact .inr ⟨_, rfl⟩
      · split
        · exact .inl ⟨_, rfl⟩
        · exact .inr ⟨_, rfl⟩
  · exact .inr ⟨_, rfl⟩

/-! ### Every instruction -/

theorem exec_ingest (chunk : List Byte) (s : State) : exec (.ingest chunk) s = .next (ingestChunk chunk s) := rfl

/-- A wire unit of a function code is the INGEST of its bytes. -/
theorem exec_ofCode (code : FunctionCode) (f : BitVec 2) (p : List Byte) (c : Byte) (s : State) :
    exec (Instr.ofCode code f p c) s = .next (ingestChunk (unitBytes f (s.cfg.fcSet.byte code) p c) s) := by
  cases code <;> rfl

/-- The four things an instruction that answers a next state can have done. -/
inductive Effect (i : Instr) (s t : State) : Prop where
  | reset (hi : i = .reset) (ht : t = clearFramer s)
  | ingest (chunk : List Byte) (hc : chunkOf s.cfg.fcSet i = some chunk) (hn : isCodec i = false)
      (ht : t = ingestChunk chunk s)
  | codec (r : Result) (hi : isCodec i = true) (hc : chunkOf s.cfg.fcSet i = none) (hs : ∀ f c p, i ≠ .send f c p)
      (hv : ∀ b ∈ returnedBlock (some r), ValidBlock s.cfg.fcSet b) (ht : t = s.answer (some r) [])
  | send (f : BitVec 2) (fc : Byte) (p : List Byte) (hi : i = .send f fc p) (hm : fc ∈ s.cfg.fcSet.members)
      (hl : p.length ≤ 63) (ht : t = sendBytes (serializeBytes f fc p) s)

/-- A codec command that makes a Block. -/
theorem effect_made {i : Instr} {s t : State} {b : Block} (hi : isCodec i = true) (hc : chunkOf s.cfg.fcSet i = none)
    (hs : ∀ f c p, i ≠ .send f c p) (hv : ValidBlock s.cfg.fcSet b) (ht : t = s.answer (some (.made b)) []) :
    Effect i s t :=
  .codec (.made b) hi hc hs (by simpa [returnedBlock] using hv) ht

theorem exec_effect {i : Instr} {s t : State} (h : exec i s = .next t) : Effect i s t := by
  cases i with
  | reset => cases h; exact .reset rfl rfl
  | ingest chunk => cases h; exact .ingest chunk rfl rfl rfl
  | csum x => cases h; exact .codec _ rfl rfl (by simp) (by simp [returnedBlock]) rfl
  | verify x => cases h; exact .codec _ rfl rfl (by simp) (by simp [returnedBlock]) rfl
  | serialize f c p =>
    change execSerialize f c p s = _ at h
    unfold execSerialize at h
    rcases operandRefusal_cases s.cfg.fcSet c p with ⟨_, e⟩ | ⟨_, _, e⟩ | ⟨_, _, e⟩ <;> rw [e] at h
    · cases h
    · cases h
    · cases h; exact .codec _ rfl rfl (by simp) (by simp [returnedBlock]) rfl
  | deserialize x =>
    cases h
    refine .codec _ rfl rfl (by simp) (fun b hb => ?_) rfl
    rcases deserializeBytes_cases s.cfg.fcSet x with ⟨b', hd⟩ | ⟨r, hd⟩
    · rw [hd] at hb; exact Option.some.inj hb ▸ (deserializeBytes_ok hd).1
    · rw [hd] at hb; cases hb
  | send f c p =>
    change execSend f c p s = _ at h
    unfold execSend at h
    rcases operandRefusal_cases s.cfg.fcSet c p with ⟨_, e⟩ | ⟨_, _, e⟩ | ⟨hm, hl, e⟩ <;> rw [e] at h
    · cases h
    · cases h
    · cases h; exact .send f c p rfl hm hl rfl
  | mkAckStandby => cases h; exact effect_made rfl rfl (by simp) (validBlock_replyBlock _ _ (by simp)) rfl
  | mkAckDisconnect => cases h; exact effect_made rfl rfl (by simp) (validBlock_replyBlock _ _ (by simp)) rfl
  | mkAck => cases h; exact effect_made rfl rfl (by simp) (validBlock_replyBlock _ _ (by simp)) rfl
  | mkReject => cases h; exact effect_made rfl rfl (by simp) (validBlock_replyBlock _ _ (by simp)) rfl
  | mkRemoteLogin =>
    change execMkRemoteLogin s = _ at h
    unfold execMkRemoteLogin at h
    rcases stringRefusal_cases s.cfg.accessCode with ⟨_, e⟩ | ⟨hl, e⟩ <;> rw [e] at h
    · cases h
    · cases h; exact effect_made rfl rfl (by simp) (validBlock_replyBlock _ _ hl) rfl
  | mkConfiguration =>
    change execMkConfiguration s = _ at h
    unfold execMkConfiguration at h
    rcases stringRefusal_cases s.cfg.capability with ⟨_, e⟩ | ⟨hl, e⟩ <;> rw [e] at h
    · cases h
    · cases h; exact effect_made rfl rfl (by simp) (validBlock_replyBlock _ _ hl) rfl
  | reservedOp7 x => cases h
  | reservedOpE x => cases h
  | reservedOpF x => cases h
  | _ => cases h; exact .ingest _ rfl rfl rfl

end Sys2Proof.Laws
end

