-- ==== Sys2Proof/Laws/PerInstr.lean ====
section
/-! SUPPORT. The family OpByte: one lemma per instruction, that its word carries its row's op byte. -/

namespace Sys2Proof.Laws

/-- The byte a row is told by: byte 0 of a command (30_encoding.md R67), byte 1 of a wire unit (R60). -/
def rowByte : PortWord → Option Byte
  | .command bytes => bytes[0]?
  | .unit bytes => bytes[1]?

/-- The match column of opcode_table.json; for a function code the byte FC_SET gives it. -/
def matchByte (t : FcTable) : Instr → Byte
  | .reset => 0x00
  | .ingest _ => 0x01
  | .csum _ => 0x02
  | .verify _ => 0x03
  | .serialize _ _ _ => 0x04
  | .deserialize _ => 0x05
  | .send _ _ _ => 0x06
  | .mkAckStandby => 0x08
  | .mkAckDisconnect => 0x09
  | .mkAck => 0x0A
  | .mkReject => 0x0B
  | .mkRemoteLogin => 0x0C
  | .mkConfiguration => 0x0D
  | .reservedOp7 _ => 0x07
  | .reservedOpE _ => 0x0E
  | .reservedOpF _ => 0x0F
  | .endOfData _ _ _ => t.endOfData
  | .wait _ _ _ => t.wait
  | .abort _ _ _ => t.abort
  | .reserved3 _ _ _ => t.reserved3
  | .reserved4 _ _ _ => t.reserved4
  | .reserved5 _ _ _ => t.reserved5
  | .ackAndStandby _ _ _ => t.ackAndStandby
  | .ackAndDisconnect _ _ _ => t.ackAndDisconnect
  | .acknowledge _ _ _ => t.acknowledge
  | .altAcknowledge _ _ _ => t.altAcknowledge
  | .reject _ _ _ => t.reject
  | .altReject _ _ _ => t.altReject
  | .control _ _ _ => t.control
  | .environmental _ _ _ => t.environmental
  | .newEvent _ _ _ => t.newEvent
  | .oldEvent _ _ _ => t.oldEvent
  | .program _ _ _ => t.program
  | .configuration _ _ _ => t.configuration
  | .remoteLogin _ _ _ => t.remoteLogin
  | .accountId _ _ _ => t.accountId
  | .originId _ _ _ => t.originId
  | .ascii _ _ _ => t.ascii
  | .extended _ _ _ => t.extended
  | .listenIn _ _ _ => t.listenIn
  | .videoRequest _ _ _ => t.videoRequest
  | .videoFrame _ _ _ => t.videoFrame
  | .video _ _ _ => t.video
  | .block _ fc _ _ => fc

/-- The encoder writes the row's op byte where the row has it. -/
def OpByte.Statement (i : Instr) : Prop :=
  ∀ t : FcTable, rowByte (encode t i) = some (matchByte t i)

theorem OpByte.reset : OpByte.Statement (.reset) := fun _ => rfl
theorem OpByte.ingest (x : List Byte) : OpByte.Statement (.ingest x) := fun _ => rfl
theorem OpByte.csum (x : List Byte) : OpByte.Statement (.csum x) := fun _ => rfl
theorem OpByte.verify (x : List Byte) : OpByte.Statement (.verify x) := fun _ => rfl
theorem OpByte.serialize (f : BitVec 2) (fc : Byte) (p : List Byte) : OpByte.Statement (.serialize f fc p) :=
  fun _ => rfl
theorem OpByte.deserialize (x : List Byte) : OpByte.Statement (.deserialize x) := fun _ => rfl
theorem OpByte.send (f : BitVec 2) (fc : Byte) (p : List Byte) : OpByte.Statement (.send f fc p) := fun _ => rfl
theorem OpByte.mkAckStandby : OpByte.Statement (.mkAckStandby) := fun _ => rfl
theorem OpByte.mkAckDisconnect : OpByte.Statement (.mkAckDisconnect) := fun _ => rfl
theorem OpByte.mkAck : OpByte.Statement (.mkAck) := fun _ => rfl
theorem OpByte.mkReject : OpByte.Statement (.mkReject) := fun _ => rfl
theorem OpByte.mkRemoteLogin : OpByte.Statement (.mkRemoteLogin) := fun _ => rfl
theorem OpByte.mkConfiguration : OpByte.Statement (.mkConfiguration) := fun _ => rfl
theorem OpByte.reservedOp7 (x : List Byte) : OpByte.Statement (.reservedOp7 x) := fun _ => rfl
theorem OpByte.reservedOpE (x : List Byte) : OpByte.Statement (.reservedOpE x) := fun _ => rfl
theorem OpByte.reservedOpF (x : List Byte) : OpByte.Statement (.reservedOpF x) := fun _ => rfl
theorem OpByte.endOfData (f : BitVec 2) (p : List Byte) (c : Byte) : OpByte.Statement (.endOfData f p c) :=
  fun _ => rfl
theorem OpByte.wait (f : BitVec 2) (p : List Byte) (c : Byte) : OpByte.Statement (.wait f p c) :=
  fun _ => rfl
theorem OpByte.abort (f : BitVec 2) (p : List Byte) (c : Byte) : OpByte.Statement (.abort f p c) :=
  fun _ => rfl
theorem OpByte.reserved3 (f : BitVec 2) (p : List Byte) (c : Byte) : OpByte.Statement (.reserved3 f p c) :=
  fun _ => rfl
theorem OpByte.reserved4 (f : BitVec 2) (p : List Byte) (c : Byte) : OpByte.Statement (.reserved4 f p c) :=
  fun _ => rfl
theorem OpByte.reserved5 (f : BitVec 2) (p : List Byte) (c : Byte) : OpByte.Statement (.reserved5 f p c) :=
  fun _ => rfl
theorem OpByte.ackAndStandby (f : BitVec 2) (p : List Byte) (c : Byte) : OpByte.Statement (.ackAndStandby f p c) :=
  fun _ => rfl
theorem OpByte.ackAndDisconnect (f : BitVec 2) (p : List Byte) (c : Byte) :
    OpByte.Statement (.ackAndDisconnect f p c) := fun _ => rfl
theorem OpByte.acknowledge (f : BitVec 2) (p : List Byte) (c : Byte) : OpByte.Statement (.acknowledge f p c) :=
  fun _ => rfl
theorem OpByte.altAcknowledge (f : BitVec 2) (p : List Byte) (c : Byte) : OpByte.Statement (.altAcknowledge f p c) :=
  fun _ => rfl
theorem OpByte.reject (f : BitVec 2) (p : List Byte) (c : Byte) : OpByte.Statement (.reject f p c) :=
  fun _ => rfl
theorem OpByte.altReject (f : BitVec 2) (p : List Byte) (c : Byte) : OpByte.Statement (.altReject f p c) :=
  fun _ => rfl
theorem OpByte.control (f : BitVec 2) (p : List Byte) (c : Byte) : OpByte.Statement (.control f p c) :=
  fun _ => rfl
theorem OpByte.environmental (f : BitVec 2) (p : List Byte) (c : Byte) : OpByte.Statement (.environmental f p c) :=
  fun _ => rfl
theorem OpByte.newEvent (f : BitVec 2) (p : List Byte) (c : Byte) : OpByte.Statement (.newEvent f p c) :=
  fun _ => rfl
theorem OpByte.oldEvent (f : BitVec 2) (p : List Byte) (c : Byte) : OpByte.Statement (.oldEvent f p c) :=
  fun _ => rfl
theorem OpByte.program (f : BitVec 2) (p : List Byte) (c : Byte) : OpByte.Statement (.program f p c) :=
  fun _ => rfl
theorem OpByte.configuration (f : BitVec 2) (p : List Byte) (c : Byte) : OpByte.Statement (.configuration f p c) :=
  fun _ => rfl
theorem OpByte.remoteLogin (f : BitVec 2) (p : List Byte) (c : Byte) : OpByte.Statement (.remoteLogin f p c) :=
  fun _ => rfl
theorem OpByte.accountId (f : BitVec 2) (p : List Byte) (c : Byte) : OpByte.Statement (.accountId f p c) :=
  fun _ => rfl
theorem OpByte.originId (f : BitVec 2) (p : List Byte) (c : Byte) : OpByte.Statement (.originId f p c) :=
  fun _ => rfl
theorem OpByte.ascii (f : BitVec 2) (p : List Byte) (c : Byte) : OpByte.Statement (.ascii f p c) :=
  fun _ => rfl
theorem OpByte.extended (f : BitVec 2) (p : List Byte) (c : Byte) : OpByte.Statement (.extended f p c) :=
  fun _ => rfl
theorem OpByte.listenIn (f : BitVec 2) (p : List Byte) (c : Byte) : OpByte.Statement (.listenIn f p c) :=
  fun _ => rfl
theorem OpByte.videoRequest (f : BitVec 2) (p : List Byte) (c : Byte) : OpByte.Statement (.videoRequest f p c) :=
  fun _ => rfl
theorem OpByte.videoFrame (f : BitVec 2) (p : List Byte) (c : Byte) : OpByte.Statement (.videoFrame f p c) :=
  fun _ => rfl
theorem OpByte.video (f : BitVec 2) (p : List Byte) (c : Byte) : OpByte.Statement (.video f p c) :=
  fun _ => rfl
theorem OpByte.block (f : BitVec 2) (fc : Byte) (p : List Byte) (c : Byte) : OpByte.Statement (.block f fc p c) :=
  fun _ => rfl

end Sys2Proof.Laws
end

