-- ==== Sys2Proof/Laws/Tx.lean ====
section
/-! SUPPORT. What the lock of the TX port can do, and what the configure input can do. -/

namespace Sys2Proof.Laws

open Sys2Proof Sys2Proof.Machine

/-- The block taken is the first of its requester: none before it in the queue has that requester. -/
theorem takeOldest_some {r : Requester} {qs left : List TxBlock} {b : TxBlock} (h : takeOldest r qs = some (b, left)) :
    ∃ pre post, qs = pre ++ b :: post ∧ left = pre ++ post ∧ b.requester = r ∧
      ∀ q ∈ pre, q.requester ≠ r := by
  induction qs generalizing left with
  | nil => simp [takeOldest] at h
  | cons q rest ih =>
    rw [takeOldest] at h
    split at h
    · next hq =>
      cases h
      exact ⟨[], rest, rfl, rfl, hq, by simp⟩
    · next hq =>
      split at h
      · next b' left' h' =>
        cases h
        obtain ⟨pre, post, rfl, rfl, hb, hp⟩ := ih h'
        refine ⟨q :: pre, post, rfl, rfl, hb, ?_⟩
        intro x hx
        rcases List.mem_cons.mp hx with rfl | hx
        · exact hq
        · exact hp x hx
      · cases h

theorem takeOldest_none {r : Requester} {qs : List TxBlock} :
    takeOldest r qs = none ↔ ∀ q ∈ qs, q.requester ≠ r := by
  induction qs with
  | nil => simp [takeOldest]
  | cons q rest ih =>
    rw [takeOldest]
    split
    · next hq => simp [hq]
    · next hq =>
      cases h : takeOldest r rest with
      | none => simpa [hq] using ih.mp h
      | some p => simpa [hq, h] using mt ih.mpr (by simp [h])

/-- Everything `grantTx` can do. -/
theorem grantTx_cases (r : Requester) (s : State) :
    (∃ pre b post, s.txQueue = pre ++ b :: post ∧ b.requester = r ∧ (∀ q ∈ pre, q.requester ≠ r) ∧
      grantTx r s = { s with txQueue := pre ++ post, txPort := s.txPort ++ [b] }) ∨
    ((∀ q ∈ s.txQueue, q.requester ≠ r) ∧ grantTx r s = s) := by
  unfold grantTx
  cases h : takeOldest r s.txQueue with
  | none => exact .inr ⟨takeOldest_none.mp h, rfl⟩
  | some p =>
    obtain ⟨b, left⟩ := p
    obtain ⟨pre, post, hq, rfl, hb, hp⟩ := takeOldest_some h
    exact .inl ⟨pre, b, post, hq, hb, hp, rfl⟩

/-- If `configure` answers a next state, it kept the inputs, or it took legal ones before the first command. -/
theorem configure_next {c : Config} {s t : State} (h : configure c s = .next t) :
    (s.configClosed = true ∧ c = s.cfg ∧ t = s) ∨
    (s.configClosed = false ∧ c.legal ∧ t = { s with cfg := c }) := by
  unfold configure at h
  cases hc : s.configClosed
  · simp only [hc, Bool.false_eq_true, if_false] at h
    split at h
    · cases h
    · next hd =>
      split at h
      · cases h
      · next hl =>
        cases h
        exact .inr ⟨rfl, ⟨Decidable.not_not.mp hd, by omega, by omega⟩, rfl⟩
  · simp only [hc, if_true] at h
    split at h
    · next he => cases h; exact .inl ⟨rfl, he, rfl⟩
    · cases h

end Sys2Proof.Laws
end

