-- ==== Sys2Proof/Machine/Asm.lean ====
section
/-! DEFINITION. The assembler syntax of 30_encoding.md R70: a line of a host program and the command it stands for. -/

namespace Sys2Proof.Machine

open Sys2Proof

/-- `fc=<name or hex>` (30_encoding.md R70). -/
inductive FcOperand where
  | name (code : FunctionCode)
  | hex (b : Byte)
  deriving DecidableEq, Repr

/-- A byte operand: hex bytes, or "text" as ASCII (30_encoding.md R70). -/
inductive BytesOperand where
  | hex (bytes : List Byte)
  | text (chars : List Char)
  deriving DecidableEq, Repr

/-- A line of a host program (30_encoding.md R70) with the pseudo-command that is one command (R71). -/
inductive AsmLine where
  | reset
  | ingest (chunk : BytesOperand)
  | csum (x : List Byte)
  | verify (x : List Byte)
  | deserialize (x : List Byte)
  | serialize (f : BitVec 2) (fc : FcOperand) (p : BytesOperand)
  | send (f : BitVec 2) (fc : FcOperand) (p : BytesOperand)
  | mkAckStandby
  | mkAckDisconnect
  | mkAck
  | mkReject
  | mkRemoteLogin
  | mkConfiguration
  | poll
  | comment
  deriving DecidableEq, Repr

/-- A function code written by name stands for its FC_SET byte (30_encoding.md R70). -/
def FcOperand.byte (t : FcTable) : FcOperand → Byte
  | .name code => t.byte code
  | .hex b => b

/-- The bytes of a byte operand. -/
def BytesOperand.bytes : BytesOperand → List Byte
  | .hex bytes => bytes
  | .text chars => chars.map fun c => BitVec.ofNat 8 c.toNat

/-- The command of a line: none for a comment. -/
def assemble (t : FcTable) : AsmLine → Option Instr
  | .reset => some .reset
  | .ingest chunk => some (.ingest chunk.bytes)
  | .csum x => some (.csum x)
  | .verify x => some (.verify x)
  | .deserialize x => some (.deserialize x)
  | .serialize f fc p => some (.serialize f (fc.byte t) p.bytes)
  | .send f fc p => some (.send f (fc.byte t) p.bytes)
  | .mkAckStandby => some .mkAckStandby
  | .mkAckDisconnect => some .mkAckDisconnect
  | .mkAck => some .mkAck
  | .mkReject => some .mkReject
  | .mkRemoteLogin => some .mkRemoteLogin
  | .mkConfiguration => some .mkConfiguration
  | .poll => some Sys2Proof.Machine.poll
  | .comment => none

end Sys2Proof.Machine
end

