-- ==== Sys2Proof/Tests/Slice0.lean ====
section
/-! SUPPORT. The model's own tests. Expected results are the spec's vectors (95_test_vectors.md) and words written out
from its tables (30_encoding.md); the last part shows, for each statement with hypotheses, a state and operands that
meet them. -/

namespace Sys2Proof.Tests

open Sys2Proof Sys2Proof.Machine Sys2Proof.Safety

/-! ### Helpers -/

/-- The next state of an outcome. -/
def nextOf : Host.Outcome State Fault Refusal → Option State
  | .next t => some t
  | _ => none

/-- The refusal of an outcome. -/
def refusalOf : Host.Outcome State Fault Refusal → Option Refusal
  | .refused r => some r
  | _ => none

/-- A framer that holds these bytes. -/
def holding (buf : List Byte) : State :=
  { State.reset with buf := buf }

/-- A framer that has overrun. -/
def overrun : State :=
  { State.reset with faulted := true }

/-- A machine with these configuration inputs. -/
def wired (c : Config) : State :=
  { State.reset with cfg := c }

/-- n copies of a byte: the vectors' XX×n. -/
def copies (b : Byte) (n : Nat) : List Byte :=
  List.replicate n b

/-- The account-id block of the vectors. -/
def account : List Byte := [0x44, 0x23, 0x31, 0x32, 0x33, 0x34, 0x9C]

/-- The account-id block with bit 0 of its first payload byte flipped. -/
def flipped : List Byte := [0x44, 0x23, 0x30, 0x32, 0x33, 0x34, 0x9C]

/-- 65 bytes of a 66-byte candidate (V-F14). -/
def long65 : List Byte := [0x3F, 0x41] ++ copies 0x20 63

/-- What a vector's row shows after one step: result bytes, event bytes, `buf` and `faulted`. -/
abbrev Row := Option (List Byte × List Byte × List Byte × Bool)

/-- One step on a word of the command port. -/
def stepWord (s : State) (word : PortWord) : Row :=
  (nextOf (step (s.withWord word))).map fun t => (t.resultBytes, t.eventBytes, t.buf, t.faulted)

/-- One step on a command's bytes. -/
def stepCommand (s : State) (bytes : List Byte) : Row :=
  stepWord s (.command bytes)

/-- One step on an INGEST of a chunk, its count byte before it. -/
def stepIngest (s : State) (chunk : List Byte) : Row :=
  stepCommand s (0x01 :: BitVec.ofNat 8 chunk.length :: chunk)

/-- The refusal of one step on a command's bytes. -/
def refusedCommand (s : State) (bytes : List Byte) : Option Refusal :=
  refusalOf (step (s.withWord (.command bytes)))

/-- The event bytes of one checksum mismatch with the default configuration. -/
def rejected : List Byte := [0x11, 0x12, 0x13, 0x00, 0x39, 0xC6]

/-- What the decoder reads with the default FC_SET. -/
def read (word : PortWord) : Option Instr :=
  (decode FcTable.default word).toOption

/-- Why the decoder refuses a word with the default FC_SET. -/
def unread (word : PortWord) : Option DecodeError :=
  match decode FcTable.default word with
  | .ok _ => none
  | .error e => some e

/-- The default bytes of 30_encoding.md R63, row by row. -/
def codeRows : List (FunctionCode × Byte) :=
  [(.endOfData, 0x30), (.wait, 0x31), (.abort, 0x32), (.reserved3, 0x33), (.reserved4, 0x34), (.reserved5, 0x35),
   (.ackAndStandby, 0x36), (.ackAndDisconnect, 0x37), (.acknowledge, 0x38), (.altAcknowledge, 0x08),
   (.reject, 0x39), (.altReject, 0x09), (.control, 0x43)] ++
  [(.environmental, 0x45), (.newEvent, 0x4E), (.oldEvent, 0x4F), (.program, 0x50), (.configuration, 0x40),
   (.remoteLogin, 0x3F), (.accountId, 0x23), (.originId, 0x26), (.ascii, 0x41), (.extended, 0x58),
   (.listenIn, 0x4C), (.videoRequest, 0x56), (.videoFrame, 0x76), (.video, 0x49)]

/-! ### Well-formedness: one ill-formed term for each check -/

theorem test_ingest_count_over_255_is_ill_formed :
    (Instr.ingest (copies 0x00 256)).wellFormed FcTable.default = false ∧
    (Instr.ingest (copies 0x00 255)).wellFormed FcTable.default = true := by decide +kernel

theorem test_csum_count_over_255_is_ill_formed :
    (Instr.csum (copies 0x00 256)).wellFormed FcTable.default = false := by decide +kernel

theorem test_verify_count_over_255_is_ill_formed :
    (Instr.verify (copies 0x00 256)).wellFormed FcTable.default = false := by decide +kernel

theorem test_deserialize_count_over_255_is_ill_formed :
    (Instr.deserialize (copies 0x00 256)).wellFormed FcTable.default = false := by decide +kernel

theorem test_serialize_payload_over_63_is_ill_formed :
    (Instr.serialize 0 0x41 (copies 0x20 64)).wellFormed FcTable.default = false ∧
    (Instr.serialize 0 0x41 (copies 0x20 63)).wellFormed FcTable.default = true := by decide

theorem test_send_payload_over_63_is_ill_formed :
    (Instr.send 0 0x41 (copies 0x20 64)).wellFormed FcTable.default = false := by decide

theorem test_unit_payload_over_63_is_ill_formed :
    (codeRows.all fun r => (Instr.ofCode r.1 0 (copies 0x20 64) 0x00).wellFormed FcTable.default == false) = true ∧
    (Instr.block 0 0x00 (copies 0x20 64) 0x00).wellFormed FcTable.default = false := by decide

theorem test_general_unit_of_a_named_code_is_ill_formed :
    (Instr.block 0 0x23 [] 0x00).wellFormed FcTable.default = false ∧
    (Instr.block 0 0x00 [] 0x00).wellFormed FcTable.default = true := by decide

/-! ### Decoding: words written out from 30_encoding.md R60, R63, R67 and R69 -/

theorem test_decode_reset : read (.command [0b00000000]) = some .reset := by decide

theorem test_decode_ingest : read (.command [0b00000001, 0x02, 0xAB, 0xCD]) = some (.ingest [0xAB, 0xCD]) := by
  decide

theorem test_decode_csum : read (.command [0b00000010, 0x01, 0x7F]) = some (.csum [0x7F]) := by decide

theorem test_decode_verify : read (.command [0b00000011, 0x01, 0xFF]) = some (.verify [0xFF]) := by decide

/-- Flags bit 0 is ack-request, bit 1 reverse-channel; the code and the count follow. -/
theorem test_decode_serialize :
    read (.command [0b00000100, 0b00000010, 0x4E, 0x02, 0x11, 0x22]) = some (.serialize 2 0x4E [0x11, 0x22]) := by
  decide

theorem test_decode_deserialize : read (.command [0b00000101, 0x02, 0x00, 0x38]) = some (.deserialize [0x00, 0x38]) := by
  decide

theorem test_decode_send : read (.command [0b00000110, 0b00000001, 0x38, 0x01, 0x55]) = some (.send 1 0x38 [0x55]) := by
  decide

theorem test_decode_replies :
    read (.command [0b00001000]) = some .mkAckStandby ∧ read (.command [0b00001001]) = some .mkAckDisconnect ∧
    read (.command [0b00001010]) = some .mkAck ∧ read (.command [0b00001011]) = some .mkReject ∧
    read (.command [0b00001100]) = some .mkRemoteLogin ∧ read (.command [0b00001101]) = some .mkConfiguration := by
  decide

theorem test_decode_reserved_ops :
    read (.command [0b00000111, 0x99]) = some (.reservedOp7 [0x99]) ∧
    read (.command [0b00001110]) = some (.reservedOpE []) ∧
    read (.command [0b00001111]) = some (.reservedOpF []) := by decide

/-- Header 0xC1: reverse-channel, ack-request, one payload byte (R61). -/
theorem test_decode_units :
    (codeRows.all fun r => read (.unit [0b11000001, r.2, 0x5A, 0x77]) == some (.ofCode r.1 3 [0x5A] 0x77)) = true := by
  decide

theorem test_decode_general_unit : read (.unit [0b01000000, 0x00, 0x77]) = some (.block 1 0x00 [] 0x77) := by
  decide

/-- A byte string of no block layout is handed over as it is (20_memory.md R46). -/
theorem test_decode_loose_bytes :
    read (.unit [0x44, 0x23]) = some (.ingest [0x44, 0x23]) ∧ read (.unit []) = some (.ingest []) ∧
    unread (.unit (copies 0x00 256)) = some .chunkTooLong := by decide +kernel

/-- V-C22, and the other refusals of R67 and R69. -/
theorem test_decode_refuses_by_name :
    unread (.command [0x04, 0x04, 0x38, 0x00]) = some .illegalFlags ∧
    unread (.command [0x10]) = some .illegalOpByte ∧ unread (.command [0xF0, 0x00]) = some .illegalOpByte ∧
    unread (.command []) = some .commandTooShort ∧ unread (.command [0x01]) = some .commandTooShort ∧
    unread (.command [0x01, 0x02, 0x00]) = some .commandTooShort ∧
    unread (.command [0x04, 0x00, 0x4E]) = some .commandTooShort ∧
    unread (.command [0x01, 0x00, 0x00]) = some .commandTooLong ∧
    unread (.command [0x00, 0x00]) = some .commandTooLong ∧
    unread (.command [0x0A, 0x00]) = some .commandTooLong := by decide

/-- Rows of opcode_table.json, operands zeros. The bytes 0x08 and 0x09 are also ops (log entry 1). -/
theorem test_table_words :
    decodeTableWord 8 0x01 = some (.ingest []) ∧ decodeTableWord 8 0x04 = some (.serialize 0 0x00 []) ∧
    decodeTableWord 8 0x0D = some .mkConfiguration ∧ decodeTableWord 8 0x07 = some (.reservedOp7 []) ∧
    decodeTableWord 8 0x4E = some (.newEvent 0 [] 0x00) ∧ decodeTableWord 8 0x00 = some .reset := by decide

/-! ### The assembler's lines (30_encoding.md R70; P1 and P5) -/

theorem test_assemble :
    assemble FcTable.default (.send 0 (.name .acknowledge) (.hex [])) = read (.command [0x06, 0x00, 0x38, 0x00]) ∧
    assemble FcTable.default (.send 0 (.name .remoteLogin) (.text ['1', '2', '3', '4'])) =
      read (.command [0x06, 0x00, 0x3F, 0x04, 0x31, 0x32, 0x33, 0x34]) ∧
    assemble FcTable.default .poll = read (.command [0x01, 0x00]) := by decide

/-! ### The framer's vectors (95_test_vectors.md section 3) -/

/-- 70_reset_and_hazards.md R140's example. -/
theorem test_reset_discards_the_buffer :
    stepCommand (holding [0x44, 0x23, 0x31]) [0x00] = some ([], [], [], false) := by decide

/-- V-F17 row 3. -/
theorem test_reset_clears_the_fault : stepCommand overrun [0x00] = some ([], [], [], false) := by decide

/-- V-F6: noise, then a block. -/
theorem test_ingest_resynchronizes :
    stepIngest State.reset ([0x00, 0xFF] ++ account) = some (0x00 :: account, [0x10, 0x10], [], false) := by
  decide

/-- V-F9 row 5: a failed candidate, two resyncs, then the good block. -/
theorem test_ingest_recovers_after_a_false_header :
    stepIngest (holding ([0x33, 0x34, 0x9C] ++ account ++ copies 0x00 42)) [0x00, 0x00] =
      some (0x00 :: account, rejected ++ [0x10, 0x10], copies 0x00 44, false) := by decide

/-- V-F3: the first block of two, and POLL for the second. -/
theorem test_ingest_returns_one_block :
    stepIngest State.reset (account ++ [0x00, 0x38, 0xC7]) = some (0x00 :: account, [], [0x00, 0x38, 0xC7], false) ∧
    stepCommand (holding [0x00, 0x38, 0xC7]) [0x01, 0x00] = some ([0x00, 0x00, 0x38, 0xC7], [], [], false) := by
  decide

/-- V-F4 and V-F5: two bytes wait, three with an invalid code drop one. -/
theorem test_ingest_waits_for_three_bytes :
    stepIngest State.reset [0x44, 0x00] = some ([0x01], [], [0x44, 0x00], false) ∧
    stepIngest State.reset [0x44, 0x00, 0x00] = some ([0x01], [0x10], [0x00, 0x00], false) := by decide

/-- V-F8 and V-F21: the checksum byte, and a payload byte, corrupted. -/
theorem test_ingest_rejects_a_bad_checksum :
    stepIngest State.reset [0x44, 0x23, 0x31, 0x32, 0x33, 0x34, 0x1C] =
      some ([0x01], rejected, [0x23, 0x31, 0x32, 0x33, 0x34, 0x1C], false) ∧
    stepIngest State.reset flipped = some ([0x01], rejected, [0x23, 0x30, 0x32, 0x33, 0x34, 0x9C], false) := by
  decide

/-- V-F11 and V-F12: the longest block, and header flags passed through. -/
theorem test_ingest_header_bounds :
    stepIngest State.reset ([0xFF, 0x41] ++ copies 0x20 63 ++ [0x61]) =
      some ([0x00, 0xFF, 0x41] ++ copies 0x20 63 ++ [0x61], [], [], false) ∧
    stepIngest State.reset [0xC1, 0x41, 0x58, 0x27] = some ([0x00, 0xC1, 0x41, 0x58, 0x27], [], [], false) := by
  decide

/-- V-F14 to V-F16: 65 + 68 and 0 + 133 bytes overrun, 132 do not. -/
theorem test_ingest_capacity :
    stepIngest (holding long65) (copies 0x00 68) = some ([0x02], [], long65, true) ∧
    stepIngest State.reset (copies 0x00 133) = some ([0x02], [], [], true) ∧
    stepIngest State.reset (copies 0x00 132) = some ([0x01], copies 0x10 130, [0x00, 0x00], false) := by
  decide

/-- V-F23: 65 + 67 bytes. -/
theorem test_ingest_takes_67_after_65 :
    stepIngest (holding long65) (0x61 :: copies 0x00 66) =
      some ([0x01], rejected ++ copies 0x10 129, [0x00, 0x00], false) := by decide

/-- V-F17 rows 1 and 2. -/
theorem test_ingest_while_faulted :
    stepIngest overrun [0x00, 0x38, 0xC7] = some ([0x02], [], [], true) ∧
    stepCommand overrun [0x01, 0x00] = some ([0x02], [], [], true) := by decide

/-- V-F20 and V-F24: the implicit Reject follows the configuration. -/
theorem test_implicit_reject_is_configured :
    stepIngest (wired { Config.default with altReject := true }) flipped =
      some ([0x01], [0x11, 0x12, 0x13, 0x00, 0x09, 0xF6], flipped.drop 1, false) ∧
    stepIngest (wired { Config.default with replyFlags := 3 }) flipped =
      some ([0x01], [0x11, 0x12, 0x13, 0xC0, 0x39, 0x06], flipped.drop 1, false) := by decide

/-! ### The codec's vectors (95_test_vectors.md section 4) -/

/-- V-C1 and V-C2. -/
theorem test_csum :
    stepCommand State.reset [0x02, 0x00] = some ([0xFF], [], [], false) ∧
    stepCommand State.reset [0x02, 0x06, 0x44, 0x23, 0x31, 0x32, 0x33, 0x34] = some ([0x9C], [], [], false) := by
  decide

/-- V-C3 and V-C4, and V-C17: an exchange of two bytes is not seen. -/
theorem test_verify :
    stepCommand State.reset [0x03, 0x00] = some ([0x00], [], [], false) ∧
    stepCommand State.reset [0x03, 0x01, 0xFF] = some ([0x01], [], [], false) ∧
    stepCommand State.reset [0x03, 0x07, 0x44, 0x23, 0x32, 0x31, 0x33, 0x34, 0x9C] = some ([0x01], [], [], false) := by
  decide

/-- V-C6, V-C24 and V-C25. -/
theorem test_serialize :
    stepCommand State.reset ([0x04, 0x03, 0x41, 0x3F] ++ copies 0x20 63) =
      some ([0x00, 0xFF, 0x41] ++ copies 0x20 63 ++ [0x61], [], [], false) ∧
    stepCommand State.reset [0x04, 0x02, 0x4E, 0x00] = some ([0x00, 0x80, 0x4E, 0x31], [], [], false) ∧
    stepCommand State.reset [0x04, 0x01, 0x33, 0x04, 0x31, 0x32, 0x33, 0x34] =
      some ([0x00, 0x44, 0x33, 0x31, 0x32, 0x33, 0x34, 0x8C], [], [], false) := by decide +kernel

/-- V-C7 and V-C21. -/
theorem test_serialize_refuses :
    refusedCommand State.reset [0x04, 0x00, 0x00, 0x00] = some .invalidFunctionCode ∧
    refusedCommand State.reset ([0x04, 0x00, 0x41, 0x40] ++ copies 0x20 64) = some .payloadTooLong := by
  decide

/-- V-C8, V-C20 and V-C23: a whole block, one too short, and one whose header asks for 66 bytes. -/
theorem test_deserialize :
    stepCommand State.reset [0x05, 0x03, 0x00, 0x38, 0xC7] = some ([0x00, 0x00, 0x38, 0xC7], [], [], false) ∧
    stepCommand State.reset [0x05, 0x02, 0x00, 0x38] = some ([0x03, 0x01], [], [], false) ∧
    stepCommand State.reset [0x05, 0x03, 0x3F, 0x38, 0xC7] = some ([0x03, 0x02], [], [], false) := by decide

/-- V-C9, V-C10 and V-C11: length, the first failing check, checksum. -/
theorem test_deserialize_reasons :
    stepCommand State.reset [0x05, 0x04, 0x00, 0x38, 0xC7, 0x00] = some ([0x03, 0x02], [], [], false) ∧
    stepCommand State.reset [0x05, 0x03, 0x00, 0x00, 0x00] = some ([0x03, 0x03], [], [], false) ∧
    stepCommand State.reset (0x05 :: 0x07 :: flipped) = some ([0x03, 0x04], [], [], false) := by decide

/-- V-C19: the event comes whatever the answer, and the block waits for the TX port as the host's. -/
theorem test_send :
    (nextOf (step (State.reset.withWord (.command [0x06, 0x00, 0x38, 0x00])))).map
        (fun t => (t.eventBytes, t.txQueue)) =
      some ([0x13, 0x00, 0x38, 0xC7], [⟨.sender .host, [0x00, 0x38, 0xC7]⟩]) := by decide

theorem test_send_refuses :
    refusedCommand State.reset [0x06, 0x00, 0x00, 0x00] = some .invalidFunctionCode := by decide

/-- V-C14. -/
theorem test_mk_ack_standby : stepCommand State.reset [0x08] = some ([0x00, 0x00, 0x36, 0xC9], [], [], false) := by
  decide

theorem test_mk_ack_disconnect : stepCommand State.reset [0x09] = some ([0x00, 0x00, 0x37, 0xC8], [], [], false) := by
  decide

/-- V-C12. -/
theorem test_mk_ack :
    stepCommand State.reset [0x0A] = some ([0x00, 0x00, 0x38, 0xC7], [], [], false) ∧
    stepCommand (wired { Config.default with altAck := true }) [0x0A] =
      some ([0x00, 0x00, 0x08, 0xF7], [], [], false) := by decide

/-- V-C18. -/
theorem test_mk_ack_reply_flags :
    stepCommand (wired { Config.default with replyFlags := 1 }) [0x0A] =
      some ([0x00, 0x40, 0x38, 0x87], [], [], false) ∧
    stepCommand (wired { Config.default with replyFlags := 2 }) [0x0A] =
      some ([0x00, 0x80, 0x38, 0x47], [], [], false) := by decide

/-- V-C13. -/
theorem test_mk_reject :
    stepCommand State.reset [0x0B] = some ([0x00, 0x00, 0x39, 0xC6], [], [], false) ∧
    stepCommand (wired { Config.default with altReject := true }) [0x0B] =
      some ([0x00, 0x00, 0x09, 0xF6], [], [], false) := by decide

/-- V-C15. -/
theorem test_mk_remote_login :
    stepCommand State.reset [0x0C] = some ([0x00, 0x04, 0x3F, 0x31, 0x32, 0x33, 0x34, 0xC0], [], [], false) ∧
    stepCommand (wired { Config.default with accessCode := [] }) [0x0C] =
      some ([0x00, 0x00, 0x3F, 0xC0], [], [], false) := by decide

/-- V-C16. -/
theorem test_mk_configuration :
    stepCommand State.reset [0x0D] =
      some ([0x00, 0x05, 0x40, 0x41, 0x4C, 0x34, 0x42, 0x31, 0xF0], [], [], false) := by decide

/-- P5 row 7, and the other two reserved ops. -/
theorem test_reserved_ops_are_refused :
    refusedCommand State.reset [0x07] = some (.reservedOp 0x7) ∧
    refusedCommand State.reset [0x0E, 0x00] = some (.reservedOp 0xE) ∧
    refusedCommand State.reset [0x0F] = some (.reservedOp 0xF) := by decide

/-! ### Wire units -/

/-- 30_encoding.md R64(a), R62: each of the 27 codes in a block with no payload comes back as it went in (V-F13 is the
row of reserved_3). -/
theorem test_units_are_returned :
    (codeRows.all fun r =>
      stepWord State.reset (.unit [0x00, r.2, 0xFF ^^^ r.2]) ==
        some ([0x00, 0x00, r.2, 0xFF ^^^ r.2], [], [], false)) = true := by decide

/-- V-F1 and V-F21 as units: the account-id block, right and corrupted. -/
theorem test_account_unit :
    stepWord State.reset (.unit account) = some (0x00 :: account, [], [], false) ∧
    stepWord State.reset (.unit flipped) = some ([0x01], rejected, flipped.drop 1, false) := by decide

/-- V-F5 as a unit: byte 1 names no code. -/
theorem test_general_unit : stepWord State.reset (.unit [0x40, 0x00, 0x00]) = some ([0x01], [0x10], [0x00, 0x00], false) := by
  decide

/-! ### The other inputs -/

/-- 20_memory.md R50: the lock lets out the framer's block although the sender's is older. -/
theorem test_grant_serves_the_framer :
    (nextOf (step { State.reset with
        txQueue := [⟨.sender .host, [0x00, 0x38, 0xC7]⟩, ⟨.framer, [0x00, 0x39, 0xC6]⟩]
        input := [.grant .framer] })).map (fun t => (t.txQueue, t.txPort)) =
      some ([⟨.sender .host, [0x00, 0x38, 0xC7]⟩], [⟨.framer, [0x00, 0x39, 0xC6]⟩]) := by decide

/-- 70_reset_and_hazards.md R142(1) and (3). -/
theorem test_configure_refuses_illegal_inputs :
    refusalOf (step { State.reset with
        input := [.configure { Config.default with fcSet := { FcTable.default with wait := 0x30 } }] }) =
      some .functionCodesNotDistinct ∧
    refusalOf (step { State.reset with
        input := [.configure { Config.default with accessCode := copies 0x31 64 }] }) =
      some .configurationTooLong := by decide

/-! ### Witnesses: a state and operands that meet each statement's hypotheses, at the bounds of each clause -/

/-- The account-id block as a Block. -/
def accountBlock : Block := ⟨0x44, 0x23, [0x31, 0x32, 0x33, 0x34], 0x9C⟩

/-- The longest block of the vectors (V-F11). -/
def longBlock : Block := ⟨0xFF, 0x41, copies 0x20 63, 0x61⟩

/-- A machine with this last result. -/
def answered (r : Result) : State :=
  { State.reset with result := some r }

/-- A machine with this input waiting. -/
def given (i : Input) : State :=
  { State.reset with input := [i] }

theorem witness_reset_alone_clears_the_fault :
    ∃ t u, exec .reset overrun = .next t ∧ exec .reset t = .next u ∧ overrun.faulted = true ∧ t.faulted = false :=
  ⟨_, _, rfl, rfl, rfl, rfl⟩

theorem witness_faulted_ingest : overrun.faulted = true := rfl

/-- 133 bytes and 132 bytes, from empty and from 65 held. -/
theorem witness_overrun_check :
    State.reset.faulted = false ∧ 132 < State.reset.buf.length + (copies 0x00 133).length ∧
    State.reset.buf.length + (copies 0x00 132).length ≤ 132 ∧ (holding long65).faulted = false ∧
    132 < (holding long65).buf.length + (copies 0x00 68).length ∧
    (holding long65).buf.length + (copies 0x00 67).length ≤ 132 := by decide +kernel

theorem witness_ingest_appends :
    (holding long65).faulted = false ∧ (holding long65).buf.length + (copies 0x00 67).length ≤ 132 ∧
    (holding long65).buf.length + ([] : List Byte).length ≤ 132 := by decide

theorem witness_fewer_than_three_bytes :
    (holding [0x44]).faulted = false ∧ ((holding [0x44]).buf ++ [0x00]).length < 3 ∧
    ((holding []).buf ++ ([] : List Byte)).length < 3 := by decide

/-- Three bytes, and 132. -/
theorem witness_invalid_function_code :
    (State.reset.faulted = false ∧ State.reset.buf.length + [0x44, 0x00, 0x00].length ≤ 132 ∧
      State.reset.buf ++ [0x44, 0x00, 0x00] = 0x44 :: 0x00 :: 0x00 :: [] ∧
      (0x00 : Byte) ∉ State.reset.cfg.fcSet.members) ∧
    State.reset.buf ++ copies 0x00 132 = 0x00 :: 0x00 :: 0x00 :: copies 0x00 129 := by decide

/-- One byte short of 66, and none short. -/
theorem witness_incomplete_block :
    (holding long65).faulted = false ∧ (holding long65).buf.length + ([] : List Byte).length ≤ 132 ∧
    (holding long65).buf ++ [] = 0x3F :: 0x41 :: 0x20 :: copies 0x20 62 ∧
    (0x41 : Byte) ∈ (holding long65).cfg.fcSet.members ∧
    ((holding long65).buf ++ []).length < ((0x3F : Byte) &&& 0x3F).toNat + 3 ∧
    (holding long65).buf ++ [0x61] = 0x3F :: 0x41 :: 0x20 :: (copies 0x20 62 ++ [0x61]) ∧
    ¬((holding long65).buf ++ [0x61]).length < ((0x3F : Byte) &&& 0x3F).toNat + 3 := by decide

theorem witness_checksum_mismatch :
    State.reset.faulted = false ∧ State.reset.buf.length + flipped.length ≤ 132 ∧
    State.reset.buf ++ flipped = 0x44 :: 0x23 :: flipped.drop 2 ∧
    (0x23 : Byte) ∈ State.reset.cfg.fcSet.members ∧
    ((0x44 : Byte) &&& 0x3F).toNat + 3 ≤ (State.reset.buf ++ flipped).length ∧
    xorfold 0xFF ((State.reset.buf ++ flipped).take (((0x44 : Byte) &&& 0x3F).toNat + 2)) ≠
      (State.reset.buf ++ flipped).getD (((0x44 : Byte) &&& 0x3F).toNat + 2) 0 ∧
    State.reset.cfg.altReject = false ∧ State.reset.cfg.replyFlags = 0 ∧ State.reset.cfg.fcSet = FcTable.default := by
  decide

/-- The longest block with 66 bytes behind it: 132 in all. -/
theorem witness_matching_block :
    State.reset.faulted = false ∧ State.reset.buf.length + (longBlock.bytes ++ copies 0x00 66).length ≤ 132 ∧
    State.reset.buf ++ (longBlock.bytes ++ copies 0x00 66) =
      0xFF :: 0x41 :: (copies 0x20 63 ++ [0x61] ++ copies 0x00 66) ∧
    (0x41 : Byte) ∈ State.reset.cfg.fcSet.members ∧
    ((0xFF : Byte) &&& 0x3F).toNat + 3 ≤ (longBlock.bytes ++ copies 0x00 66).length ∧
    xorfold 0xFF ((longBlock.bytes ++ copies 0x00 66).take (((0xFF : Byte) &&& 0x3F).toNat + 2)) =
      (longBlock.bytes ++ copies 0x00 66).getD (((0xFF : Byte) &&& 0x3F).toNat + 2) 0 := by decide +kernel

theorem witness_bounded_drops :
    State.reset.faulted = false ∧ State.reset.buf.length + (copies 0x00 132).length ≤ 132 := by decide +kernel

/-- One mismatch, and two resyncs: lists of drops that are not empty. -/
theorem witness_recovered_errors :
    (∃ t, exec (.ingest flipped) State.reset = .next t ∧
      t.events = [true].flatMap (dropEvents State.reset.cfg)) ∧
    ∃ t, exec (.ingest ([0x00, 0xFF] ++ account)) State.reset = .next t ∧
      t.events = [false, false].flatMap (dropEvents State.reset.cfg) :=
  ⟨⟨_, rfl, by decide⟩, ⟨_, rfl, by decide⟩⟩

theorem witness_returned_block :
    ∃ t, exec (.ingest account) State.reset = .next t ∧ t.result = some (.block accountBlock) :=
  ⟨_, rfl, by decide⟩

/-- 132 bytes held, and a NEED_MORE. -/
theorem witness_poll :
    (holding (copies 0x00 132)).buf.length ≤ 132 ∧
    ∃ t, exec (.ingest [0x44]) State.reset = .next t ∧ t.result = some .needMore :=
  ⟨by decide +kernel, _, rfl, by decide +kernel⟩

/-- A NEED_MORE with two bytes held, and one with 65. -/
theorem witness_after_need_more :
    (∃ t, exec (.ingest [0x44, 0x00]) State.reset = .next t ∧ t.result = some .needMore ∧ t.buf.length = 2) ∧
    ∃ t, exec (.ingest long65) State.reset = .next t ∧ t.result = some .needMore ∧ t.buf.length = 65 :=
  ⟨⟨_, rfl, by decide⟩, ⟨_, rfl, by decide⟩⟩

/-- The five clauses of R94: 67 bytes after RESET and after a NEED_MORE, a byte after 65, 133 bytes, 68 after 65. -/
theorem witness_host_disciplines :
    (exec .reset overrun = .next State.reset ∧ (copies 0x00 67).length ≤ 67) ∧
    (∃ t, exec (.ingest long65) State.reset = .next t ∧ t.result = some .needMore ∧ t.buf.length = 65) ∧
    ((holding long65).faulted = false ∧ (holding long65).buf.length ≤ 65) ∧
    132 < (copies 0x00 133).length ∧ (copies 0x00 68).length = 68 :=
  ⟨⟨rfl, by decide⟩, ⟨_, rfl, by decide⟩, by decide, by decide, by decide⟩

theorem witness_one_block_per_call :
    State.reset.faulted = false ∧ State.reset.buf.length + (longBlock.bytes ++ copies 0x00 66).length ≤ 132 ∧
    ValidBlock State.reset.cfg.fcSet longBlock ∧ ValidBlock State.reset.cfg.fcSet accountBlock ∧
    State.reset.buf ++ (longBlock.bytes ++ copies 0x00 66) = longBlock.bytes ++ copies 0x00 66 := by decide +kernel

/-- V-F1 and V-F22: one chunk of seven bytes, and seven chunks. -/
theorem witness_streaming :
    exec poll State.reset = .next { State.reset with result := some .needMore, events := [] } ∧
    [account].flatten = (account.map fun b => [b]).flatten ∧
    (feed [account] State.reset).2.faulted = false ∧
    (feed (account.map fun b => [b]) State.reset).2.faulted = false :=
  ⟨rfl, by decide, by decide, by decide⟩

/-- The first payload byte's lowest bit, and the checksum byte's highest. -/
theorem witness_single_bit_flip :
    ValidBlock State.reset.cfg.fcSet accountBlock ∧
    ((holding flipped).faulted = false ∧ (holding flipped).buf.length ≤ 132 ∧ 2 < accountBlock.bytes.length ∧
      (holding flipped).buf = flipBit 2 0 accountBlock.bytes ++ []) ∧
    (6 < accountBlock.bytes.length ∧
      (holding (flipBit 6 7 accountBlock.bytes ++ [0x00])).buf = flipBit 6 7 accountBlock.bytes ++ [0x00]) ∧
    flipBit 6 7 accountBlock.bytes = [0x44, 0x23, 0x31, 0x32, 0x33, 0x34, 0x1C] := by decide

/-- V-F19: bit 4 of payload bytes 0 and 1; and bit 7 of the header and of the checksum byte. -/
theorem witness_even_column :
    ValidBlock State.reset.cfg.fcSet accountBlock ∧
    (⟨0x44, 0x23, [0x21, 0x22, 0x33, 0x34], 0x9C⟩ : Block).bytes = flipBit 3 4 (flipBit 2 4 accountBlock.bytes) ∧
    xorfold 0x00 (⟨0x44, 0x23, [0x21, 0x22, 0x33, 0x34], 0x9C⟩ : Block).bytes = xorfold 0x00 accountBlock.bytes ∧
    (holding [0x44, 0x23, 0x21, 0x22, 0x33, 0x34, 0x9C]).buf = flipBit 3 4 (flipBit 2 4 accountBlock.bytes) ++ [] ∧
    [0xC4, 0x23, 0x31, 0x32, 0x33, 0x34, 0x1C] = flipBit 6 7 (flipBit 0 7 accountBlock.bytes) ∧
    (0xC4 : Byte) &&& 0x3F = accountBlock.hdr &&& 0x3F ∧ (0x23 : Byte) ∈ State.reset.cfg.fcSet.members := by decide

theorem witness_csum_order : [0x44, 0x23].Perm [(0x23 : Byte), 0x44] := by decide

/-- A member with 63 bytes, a byte that is no member, and a member with 64. -/
theorem witness_serialize_operands :
    (0x41 : Byte) ∈ State.reset.cfg.fcSet.members ∧ (copies 0x20 63).length ≤ 63 ∧
    (0x00 : Byte) ∉ State.reset.cfg.fcSet.members ∧ 63 < (copies 0x20 64).length := by decide

/-- The five answers of DESERIALIZE, their premises in the order of the statement. -/
theorem witness_deserialize_clauses :
    ([0x00, 0x38] : List Byte).length < 3 ∧
    (3 ≤ ([0x00, 0x00, 0x00] : List Byte).length ∧
      ([0x00, 0x00, 0x00] : List Byte).getD 1 0 ∉ State.reset.cfg.fcSet.members) ∧
    (([0x3F, 0x38, 0xC7] : List Byte).getD 1 0 ∈ State.reset.cfg.fcSet.members ∧
      ([0x3F, 0x38, 0xC7] : List Byte).length ≠ (([0x3F, 0x38, 0xC7] : List Byte).getD 0 0 &&& 0x3F).toNat + 3) ∧
    (flipped.getD 1 0 ∈ State.reset.cfg.fcSet.members ∧ flipped.length = (flipped.getD 0 0 &&& 0x3F).toNat + 3 ∧
      xorfold 0xFF flipped.dropLast ≠ flipped.getD (flipped.length - 1) 0) ∧
    (account.getD 1 0 ∈ State.reset.cfg.fcSet.members ∧ account.length = (account.getD 0 0 &&& 0x3F).toNat + 3 ∧
      xorfold 0xFF account.dropLast = account.getD (account.length - 1) 0) := by decide

theorem witness_round_trip :
    (0x23 : Byte) ∈ State.reset.cfg.fcSet.members ∧ State.reset.buf = [] ∧ State.reset.faulted = false ∧
    ∃ t, exec (.deserialize account) State.reset = .next t ∧ t.result = some (.deserialized accountBlock) :=
  ⟨by decide, rfl, rfl, _, rfl, by decide⟩

theorem witness_send_refusal :
    exec (.serialize 0 0x00 []) State.reset = .refused .invalidFunctionCode ∧
    exec (.serialize 0 0x41 (copies 0x20 64)) State.reset = .refused .payloadTooLong := ⟨rfl, rfl⟩

/-- Both alternatives of the two switches, and the header of REPLY_FLAGS = 3. -/
theorem witness_fixed_replies :
    (wired { Config.default with altAck := true }).cfg.altAck = true ∧
    (wired { Config.default with altReject := true }).cfg.altReject = true ∧
    (0xC0 : Byte) = (wired { Config.default with replyFlags := 3 }).cfg.replyFlags.setWidth 8 <<< 6 := by
  decide

/-- Strings of 63 and of 64 bytes, and the header of the first. -/
theorem witness_string_replies :
    (wired { Config.default with accessCode := copies 0x31 63 }).cfg.accessCode.length ≤ 63 ∧
    63 < (wired { Config.default with capability := copies 0x31 64 }).cfg.capability.length ∧
    (0x3F : Byte) = (State.reset.cfg.replyFlags.setWidth 8 <<< 6) ||| BitVec.ofNat 8 (copies 0x31 63).length := by
  decide

theorem witness_codec : isCodec (.csum []) = true ∧ isCodec .mkReject = true ∧ isCodec (.send 0 0x38 []) = true := by
  decide

/-- A codec command that is no SEND, and a SEND. -/
theorem witness_side_effects :
    (∃ t, exec (.csum []) overrun = .next t ∧ chunkOf overrun.cfg.fcSet (.csum []) = none ∧
      isCodec (.csum []) = true) ∧
    ∃ t, exec (.send 0 0x38 []) overrun = .next t ∧ chunkOf overrun.cfg.fcSet (.send 0 0x38 []) = none :=
  ⟨⟨_, rfl, rfl, rfl⟩, ⟨_, rfl, rfl⟩⟩

/-- By INGEST, and by a wire unit of 66 bytes on 67 held. -/
theorem witness_overrun_cause :
    (∃ t, exec (.ingest (copies 0x00 133)) State.reset = .next t ∧ State.reset.faulted = false ∧ t.faulted = true) ∧
    (∃ t, exec (.ascii 3 (copies 0x20 63) 0x61) (holding (copies 0x00 67)) = .next t ∧
      (holding (copies 0x00 67)).faulted = false ∧ t.faulted = true) ∧
    (answered .faultOverrun).result = some .faultOverrun :=
  ⟨⟨_, rfl, by decide +kernel⟩, ⟨_, rfl, by decide +kernel⟩, rfl⟩

/-- The reset state, and a state that runs: a Block returned, one block waiting and one out. -/
theorem witness_invariant :
    (Safety.Inv (given (.grant .framer)) ∧ ∃ t, step (given (.grant .framer)) = .next t) ∧
    Safety.Inv { answered (.block accountBlock) with
      buf := long65, configClosed := true, txQueue := [⟨.framer, [0x00, 0x39, 0xC6]⟩]
      txPort := [⟨.sender .host, [0x00, 0x38, 0xC7]⟩] } := by
  refine ⟨⟨⟨?_, ?_, ?_, ?_, ?_⟩, _, rfl⟩, ?_, ?_, ?_, ?_, ?_⟩ <;>
    simp [given, answered, returnedBlock, State.reset] <;> decide

/-- A grant, a SEND and an INGEST that rejects: each answers a next state. -/
theorem witness_tx_order :
    (∃ t, step (given (.grant .framer)) = .next t) ∧
    (∃ t, step (given (.port (.other 1) (.command [0x06, 0x00, 0x38, 0x00]))) = .next t) ∧
    ∃ t, step (given (.port .host (.unit flipped))) = .next t :=
  ⟨⟨_, rfl⟩, ⟨_, rfl⟩, ⟨_, rfl⟩⟩

/-- The framer's block behind the host's, and a queue with no block of the framer. -/
theorem witness_tx_lock :
    (given (.grant .framer)).input = .grant .framer :: [] ∧
    [(⟨.sender .host, account⟩ : TxBlock), ⟨.framer, account⟩, ⟨.framer, flipped⟩] =
      [⟨.sender .host, account⟩] ++ ⟨.framer, account⟩ :: [⟨.framer, flipped⟩] ∧
    (∀ p ∈ [(⟨.sender .host, account⟩ : TxBlock)], p.requester ≠ .framer) ∧
    ∀ q ∈ State.reset.txQueue, q.requester ≠ .framer := by decide

/-- The five clauses: legal inputs at 63 bytes, a repeated code, 64 bytes, a change and no change when closed. -/
theorem witness_configuration :
    State.reset.configClosed = false ∧
    ({ Config.default with accessCode := copies 0x31 63, capability := copies 0x41 63 } : Config).legal ∧
    ¬({ FcTable.default with wait := 0x30 } : FcTable).distinct ∧
    (Config.default.fcSet.distinct ∧ 63 < (copies 0x31 64).length) ∧
    ({ State.reset with configClosed := true }).configClosed = true ∧
    { Config.default with altAck := true } ≠ State.reset.cfg ∧ Config.default = State.reset.cfg := by decide

theorem witness_idle : State.reset.input = [] := rfl

/-- A word that decodes, and one that does not. -/
theorem witness_step :
    (given (.port .host (.command [0x0A]))).input = .port .host (.command [0x0A]) :: [] ∧
    decode State.reset.cfg.fcSet (.command [0x0A]) = .ok .mkAck ∧
    decode State.reset.cfg.fcSet (.command [0x10]) = .error .illegalOpByte := ⟨rfl, rfl, rfl⟩

/-- Byte 0 and the flags byte with their lowest and their highest illegal bit. -/
theorem witness_illegal_words :
    (given (.port .host (.command [0x0E, 0x55]))).input = .port .host (.command (0x0E :: [0x55])) :: [] ∧
    (0x10 : Byte).extractLsb' 4 4 ≠ 0 ∧ (0x80 : Byte).extractLsb' 4 4 ≠ 0 ∧
    (0x04 : Byte).extractLsb' 2 6 ≠ 0 ∧ (0x80 : Byte).extractLsb' 2 6 ≠ 0 := by decide

theorem witness_command_length :
    (Instr.csum [0x7F]).wellFormed FcTable.default = true ∧
    encode FcTable.default (.csum [0x7F]) = .command [0x02, 0x01, 0x7F] ∧
    [0x02, 0x01] ++ [(0x7F : Byte)] = [0x02, 0x01, 0x7F] ∧ [(0x7F : Byte)] ≠ [] := by decide

/-- 255 bytes, 63 bytes, and a general unit. -/
theorem witness_encode :
    FcTable.default.distinct ∧ (Instr.ingest (copies 0x00 255)).wellFormed FcTable.default = true ∧
    (Instr.send 3 0x00 (copies 0x20 63)).wellFormed FcTable.default = true ∧
    (Instr.video 3 (copies 0x20 63) 0x00).wellFormed FcTable.default = true ∧
    (Instr.block 3 0x00 (copies 0x20 63) 0x00).wellFormed FcTable.default = true := by decide +kernel

/-- A count over 63 still decodes (V-C21). -/
theorem witness_decode :
    decodeCommand ([0x04, 0x00, 0x41, 0x40] ++ copies 0x20 64) = .ok (.serialize 0 0x41 (copies 0x20 64)) := by
  decide

theorem witness_membership :
    FcTable.default.distinct ∧ State.reset.cfg.fcSet = FcTable.default ∧ State.reset.faulted = false ∧
    State.reset.buf = [] ∧ (0x00 : Byte) ∉ FcTable.default.members ∧ (copies 0x20 63).length ≤ 63 := by decide

/-- Each result and each event of R68. -/
theorem witness_port_codes :
    State.reset.result = none ∧ State.reset.events = [] ∧
    ([.needMore, .faultOverrun, .block accountBlock, .deserialized accountBlock, .made accountBlock, .checksum 0x00,
        .verified true, .sent false, .serialized account, .invalid .short, .invalid .length, .invalid .badFc,
        .invalid .badChecksum].all fun r => (answered r).result == some r) = true ∧
    ([.resync, .csumFail, .notifyReject, .tx account].all fun e =>
      ({ State.reset with events := [e] }).events == e :: []) = true := by decide

/-- A Block from INGEST, from DESERIALIZE and from MK_REJECT. -/
theorem witness_returned_bytes :
    (∃ t, exec (.ingest account) State.reset = .next t ∧ returnedBlock t.result = some accountBlock) ∧
    (∃ t, exec (.deserialize account) State.reset = .next t ∧ returnedBlock t.result = some accountBlock) ∧
    ∃ t, exec .mkReject State.reset = .next t ∧ returnedBlock t.result = some ⟨0x00, 0x39, [], 0xC6⟩ :=
  ⟨⟨_, rfl, by decide⟩, ⟨_, rfl, by decide⟩, ⟨_, rfl, by decide⟩⟩

/-- No payload and 63 bytes of it, an empty framer, and a member code. -/
theorem witness_units :
    ([] : List Byte).length ≤ 63 ∧ (copies 0x20 63).length ≤ 63 ∧ State.reset.faulted = false ∧
    State.reset.buf = [] ∧ (0x33 : Byte) ∈ State.reset.cfg.fcSet.members := by decide

theorem witness_pseudo_commands :
    State.reset.cfg.legal ∧
    Instr.mkAck ∈ [Instr.mkAckStandby, .mkAckDisconnect, .mkAck, .mkReject, .mkRemoteLogin, .mkConfiguration] := by
  decide

end Sys2Proof.Tests
end

section
/-! PROOFS. The family 10_state.md: what power-on and RESET leave, what a returned Block's port bytes are, and the
invariant every step keeps. -/

namespace Sys2Proof.Proofs

open Sys2Proof Sys2Proof.Machine Sys2Proof.Safety Sys2Proof.Laws

/-! ### Power-on and RESET -/

theorem exec_reset (s : State) : exec .reset s = .next (clearFramer s) := rfl

theorem clearFramer_powerOn : clearFramer State.reset = State.reset := rfl

/-- Settles O1: RESET is `clearFramer`, which at power-on changes nothing. -/
theorem powerOnAndResetEmptyTheFramer : Obligations.PowerOnAndResetEmptyTheFramer := by
  refine ⟨⟨rfl, rfl, rfl⟩, ?_, fun s => ⟨clearFramer s, exec_reset s, ?_⟩⟩
  · rw [exec_reset, clearFramer_powerOn]
  · simp

/-! ### The framer's loop returns valid Blocks and sends only Rejects -/

theorem pass_found {t : FcTable} {buf : List Byte} {n : Nat} (h : framerPass t buf = .found n) :
    n = blockSize (buf.getD 0 0) ∧ n ≤ buf.length ∧ buf.getD 1 0 ∈ t.members ∧ checksumMatches n buf = true := by
  rcases pass_cases t buf with ⟨_, e⟩ | ⟨_, _, e⟩ | ⟨_, _, _, e⟩ | ⟨_, _, _, e⟩ | ⟨hl, hm, hc, e⟩ <;>
    rw [e] at h <;> cases h
  exact ⟨rfl, hl, hm, hc⟩

/-- A block the framer finds satisfies the three invariants of 10_state.md R25. -/
theorem validBlock_of_found {t : FcTable} {buf : List Byte} {n : Nat} (h : framerPass t buf = .found n) :
    ValidBlock t (blockAt n buf) := by
  obtain ⟨rfl, hl, hm, hc⟩ := pass_found h
  obtain ⟨hbytes, hlen⟩ := found_bytes hl
  refine ⟨hlen, hm, ?_⟩
  have hcs := checksumMatches_bytes (blockAt (blockSize (buf.getD 0 0)) buf) (buf.drop (blockSize (buf.getD 0 0)))
  rw [hlen, hbytes, List.take_append_drop, ← blockSize_eq, hc] at hcs
  exact (beq_iff_eq.mp hcs.symm).symm

theorem extract_block_valid (c : Config) (buf : List Byte) :
    ∀ b ∈ (extract c buf).block, ValidBlock c.fcSet b := by
  induction buf with
  | nil => simp [extract]
  | cons h rest ih =>
    rw [extract]
    split
    · simp
    · exact ih
    · simp
    · exact ih
    · next size hp =>
      intro b hb
      exact Option.some.inj hb ▸ validBlock_of_found hp

/-- The only blocks the loop submits are implicit Rejects (40_framer.md R87). -/
theorem extract_txBytes (c : Config) (buf : List Byte) :
    ∀ x ∈ txBytes (extract c buf).events, x = (rejectBlock c).bytes := by
  induction buf with
  | nil => simp [extract, txBytes]
  | cons h rest ih =>
    rw [extract]
    split
    · simp [txBytes]
    · simpa [txBytes] using ih
    · simp [txBytes]
    · simpa using ih
    · simp [txBytes]

theorem wholeBlock_reject (c : Config) : WholeBlock c.fcSet (rejectBlock c).bytes :=
  wholeBlock_of_validBlock (validBlock_replyBlock c _ (by simp))

/-! ### INGEST -/

@[simp] theorem ingested_configClosed (s : State) (e : Extraction) :
    (ingested s e).configClosed = s.configClosed := rfl
@[simp] theorem ingested_txPort (s : State) (e : Extraction) : (ingested s e).txPort = s.txPort := rfl

@[simp] theorem ingestChunk_cfg (chunk : List Byte) (s : State) : (ingestChunk chunk s).cfg = s.cfg := by
  rcases ingestChunk_cases chunk s with ⟨_, e⟩ | ⟨_, _, e⟩ | ⟨_, _, e⟩ <;> simp [e]

@[simp] theorem ingestChunk_configClosed (chunk : List Byte) (s : State) :
    (ingestChunk chunk s).configClosed = s.configClosed := by
  rcases ingestChunk_cases chunk s with ⟨_, e⟩ | ⟨_, _, e⟩ | ⟨_, _, e⟩ <;> simp [e]

@[simp] theorem ingestChunk_txPort (chunk : List Byte) (s : State) : (ingestChunk chunk s).txPort = s.txPort := by
  rcases ingestChunk_cases chunk s with ⟨_, e⟩ | ⟨_, _, e⟩ | ⟨_, _, e⟩ <;> simp [e]

theorem ingestChunk_buf_le (chunk : List Byte) {s : State} (h : s.buf.length ≤ bufCap) :
    (ingestChunk chunk s).buf.length ≤ bufCap := by
  rcases ingestChunk_cases chunk s with ⟨_, e⟩ | ⟨_, _, e⟩ | ⟨_, hl, e⟩ <;> rw [e]
  · exact h
  · exact h
  · calc (extract s.cfg (s.buf ++ chunk)).buf.length
        ≤ (s.buf ++ chunk).length := extract_buf_length_le _ _
      _ = s.buf.length + chunk.length := List.length_append
      _ ≤ bufCap := hl

theorem returnedBlock_extraction (e : Extraction) : returnedBlock (some e.result) = e.block := by
  obtain ⟨_ | b, _, _⟩ := e <;> rfl

theorem ingestChunk_returns_valid (chunk : List Byte) (s : State) :
    ∀ b ∈ returnedBlock (ingestChunk chunk s).result, ValidBlock s.cfg.fcSet b := by
  rcases ingestChunk_cases chunk s with ⟨_, e⟩ | ⟨_, _, e⟩ | ⟨_, _, e⟩ <;> rw [e]
  · simp [returnedBlock]
  · simp [returnedBlock]
  · rw [ingested_result, returnedBlock_extraction]
    exact extract_block_valid s.cfg _

theorem ingestChunk_queues_whole (chunk : List Byte) (s : State) :
    ∀ q ∈ (ingestChunk chunk s).txQueue, q ∈ s.txQueue ∨ WholeBlock s.cfg.fcSet q.bytes := by
  rcases ingestChunk_cases chunk s with ⟨_, e⟩ | ⟨_, _, e⟩ | ⟨_, _, e⟩ <;> rw [e] <;> intro q hq
  · exact .inl hq
  · exact .inl hq
  · rw [ingested_txQueue, List.mem_append, List.mem_map] at hq
    obtain hq | ⟨x, hx, rfl⟩ := hq
    · exact .inl hq
    · rw [extract_txBytes s.cfg _ x hx]
      exact .inr (wholeBlock_reject s.cfg)

/-! ### Every instruction -/

/-- What no instruction changes: the configuration inputs and the blocks already out on the TX port. -/
theorem exec_frame {i : Instr} {s t : State} (h : exec i s = .next t) :
    t.cfg = s.cfg ∧ t.configClosed = s.configClosed ∧ t.txPort = s.txPort := by
  cases exec_effect h with
  | reset _ ht => simp [ht]
  | ingest chunk _ _ ht => simp [ht]
  | codec r _ _ _ _ ht => simp [ht]
  | send f fc p _ _ _ ht => simp [ht, sendBytes_eq]

theorem exec_cfg {i : Instr} {s t : State} (h : exec i s = .next t) : t.cfg = s.cfg :=
  (exec_frame h).1

theorem exec_buf_le {i : Instr} {s t : State} (h : exec i s = .next t) (hs : s.buf.length ≤ bufCap) :
    t.buf.length ≤ bufCap := by
  cases exec_effect h with
  | reset _ ht => simp [ht]
  | ingest chunk _ _ ht => exact ht ▸ ingestChunk_buf_le chunk hs
  | codec r _ _ _ _ ht => simpa [ht] using hs
  | send f fc p _ _ _ ht => rwa [ht, sendBytes_eq]

/-- A Block an instruction returns satisfies the three invariants of 10_state.md R25. -/
theorem exec_returns_valid {i : Instr} {s t : State} (h : exec i s = .next t) :
    ∀ b ∈ returnedBlock t.result, ValidBlock t.cfg.fcSet b := by
  rw [exec_cfg h]
  cases exec_effect h with
  | reset _ ht => simp [ht, returnedBlock]
  | ingest chunk _ _ ht => exact ht ▸ ingestChunk_returns_valid chunk s
  | codec r _ _ _ hv ht => exact ht ▸ hv
  | send f fc p _ _ _ ht => rw [ht, sendBytes_eq]; simp [returnedBlock]

/-- Every block an instruction puts into the TX queue is one whole well-formed block (20_memory.md R50). -/
theorem exec_queues_whole {i : Instr} {s t : State} (h : exec i s = .next t) :
    ∀ q ∈ t.txQueue, q ∈ s.txQueue ∨ WholeBlock s.cfg.fcSet q.bytes := by
  cases exec_effect h with
  | reset _ ht => exact fun q hq => .inl (by simpa [ht] using hq)
  | ingest chunk _ _ ht => exact ht ▸ ingestChunk_queues_whole chunk s
  | codec r _ _ _ _ ht => exact fun q hq => .inl (by simpa [ht] using hq)
  | send f fc p _ hm hl ht =>
    intro q hq
    rw [ht, sendBytes_eq, List.mem_append, List.mem_singleton] at hq
    obtain hq | rfl := hq
    · exact .inl hq
    · exact .inr (wholeBlock_of_validBlock (validBlock_makeBlock f hm hl))

/-! ### The port bytes of a returned Block -/

/-- DESERIALIZE takes the bytes of a valid Block back to it: the converse of `deserializeBytes_ok`. -/
theorem deserializeBytes_bytes {t : FcTable} {b : Block} (h : ValidBlock t b) :
    deserializeBytes t b.bytes = .deserialized b := by
  obtain ⟨hl, hm, hc⟩ := h
  have hsize : b.bytes.length = blockSize b.hdr := by rw [bytes_length, hl, blockSize_eq]
  have hmatch : checksumMatches b.bytes.length b.bytes = true := by
    have := checksumMatches_bytes b []
    rw [List.append_nil, ← bytes_length] at this
    rw [this, beq_iff_eq]; exact hc.symm
  have hback : blockAt b.bytes.length b.bytes = b := by
    have := blockAt_bytes b []
    rwa [List.append_nil, ← bytes_length] at this
  obtain ⟨x, tl, hx⟩ : ∃ x tl, b.payload ++ [b.cs] = x :: tl := by
    cases b.payload <;> exact ⟨_, _, rfl⟩
  have hshape : b.bytes = b.hdr :: b.fc :: x :: tl := by rw [← hx]; rfl
  rw [hshape] at hsize hmatch hback ⊢
  rw [deserializeBytes, if_neg (not_not.mpr hm), if_neg (not_not.mpr hsize), if_pos hmatch, hback]

theorem exec_deserialize (x : List Byte) (s : State) :
    exec (.deserialize x) s = .next (s.answer (some (deserializeBytes s.cfg.fcSet x)) []) := rfl

/-- A returned Block crosses the port as 0x00 and its bytes, whatever operation returned it (30_encoding.md R68). -/
theorem resultBytes_returnedBlock {s : State} {b : Block} (h : returnedBlock s.result = some b) :
    s.resultBytes = 0x00 :: b.bytes := by
  unfold State.resultBytes
  generalize s.result = r at h ⊢
  cases r with
  | none => cases h
  | some r => cases r <;> cases h <;> rfl

/-- Settles O47: every returned Block is valid, and DESERIALIZE takes a valid Block's bytes back to it. -/
theorem returnedBlockBytesDeserialize : Obligations.ReturnedBlockBytesDeserialize := by
  intro i s t b h hb
  have hv : ValidBlock t.cfg.fcSet b := exec_returns_valid h b hb
  refine ⟨b.bytes, resultBytes_returnedBlock hb, ?_⟩
  rw [exec_deserialize, deserializeBytes_bytes hv]; rfl

/-! ### The invariant -/

/-- What a step that answers a next state has done: held the state, executed the decoded word, set the configuration
inputs, or let a block out on the TX port. -/
theorem step_cases {s t : State} (h : step s = .next t) :
    (s.input = [] ∧ t = s) ∨
    (∃ who word rest i, s.input = .port who word :: rest ∧ fetch s word = .ok i ∧
      exec i (s.issue who rest) = .next t) ∨
    (∃ c rest, s.input = .configure c :: rest ∧ configure c { s with input := rest } = .next t) ∨
    (∃ who rest, s.input = .grant who :: rest ∧ t = grantTx who { s with input := rest }) := by
  unfold step at h
  split at h
  · next hi => cases h; exact .inl ⟨hi, rfl⟩
  · next who word rest hi =>
    split at h
    · next i hf => exact .inr (.inl ⟨who, word, rest, i, hi, hf, h⟩)
    · cases h
  · next c rest hi => exact .inr (.inr (.inl ⟨c, rest, hi, h⟩))
  · next who rest hi => cases h; exact .inr (.inr (.inr ⟨who, rest, hi, rfl⟩))

/-- Once the configuration is closed every instruction keeps the invariant. -/
theorem exec_keeps_inv {i : Instr} {s t : State} (h : exec i s = .next t) (hclosed : s.configClosed = true)
    (hs : Inv s) : Inv t := by
  obtain ⟨hbuf, hcfg, -, htx, -⟩ := hs
  obtain ⟨hc, hclose, hport⟩ := exec_frame h
  refine ⟨exec_buf_le h hbuf, hc ▸ hcfg, exec_returns_valid h, fun q hq => ?_, fun hopen => ?_⟩
  · rw [hc]
    rw [hport, List.mem_append] at hq
    obtain hq | hq := hq
    · exact (exec_queues_whole h q hq).elim (fun hq => htx q (List.mem_append_left _ hq)) id
    · exact htx q (List.mem_append_right _ hq)
  · rw [hclose, hclosed] at hopen; cases hopen

theorem issue_keeps_inv {s : State} (who : Issuer) (rest : List Input) (hs : Inv s) : Inv (s.issue who rest) := by
  obtain ⟨hbuf, hcfg, hres, htx, -⟩ := hs
  exact ⟨hbuf, hcfg, hres, htx, fun hopen => by simp at hopen⟩

/-- Before the first command no Block and no waiting block depends on FC_SET, so any legal inputs may be set. -/
theorem configure_keeps_inv {c : Config} {s t : State} (h : configure c s = .next t) (hs : Inv s) : Inv t := by
  obtain ⟨-, -, rfl⟩ | ⟨hopen, hlegal, rfl⟩ := configure_next h
  · exact hs
  · obtain ⟨hbuf, -, -, -, hfirst⟩ := hs
    obtain ⟨-, -, hres, hqueue, hport⟩ := hfirst hopen
    exact ⟨hbuf, hlegal, by simp [hres, returnedBlock], by simp [hqueue, hport], hfirst⟩

/-- The lock only moves a block from the queue to the port. -/
theorem grantTx_keeps_inv (who : Requester) {s : State} (hs : Inv s) : Inv (grantTx who s) := by
  obtain ⟨pre, b, post, hq, -, -, e⟩ | ⟨-, e⟩ := grantTx_cases who s <;> rw [e]
  · obtain ⟨hbuf, hcfg, hres, htx, hfirst⟩ := hs
    refine ⟨hbuf, hcfg, hres, fun q hmem => htx q ?_, fun hopen => ?_⟩
    · simp only [hq, List.mem_append, List.mem_cons, List.not_mem_nil, or_false] at hmem ⊢
      tauto
    · obtain ⟨-, -, -, hqueue, -⟩ := hfirst hopen
      simp [hq] at hqueue
  · exact hs

/-- Settles O34: each of the four things a step can do keeps the invariant. -/
theorem everyStepKeepsTheInvariant : Obligations.EveryStepKeepsTheInvariant := by
  intro s t hs h
  have hrest : ∀ rest, Inv { s with input := rest } := fun _ => hs
  obtain ⟨-, rfl⟩ | ⟨who, word, rest, i, -, -, he⟩ | ⟨c, rest, -, hc⟩ | ⟨who, rest, -, rfl⟩ := step_cases h
  · exact hs
  · exact exec_keeps_inv he rfl (issue_keeps_inv who rest hs)
  · exact configure_keeps_inv hc (hrest rest)
  · exact grantTx_keeps_inv who (hrest rest)

end Sys2Proof.Proofs
end

section
/-! PROOFS. The family 20_memory.md: the frame of every instruction, the order and completeness of the TX port, and
the lock that serves any requester. -/

namespace Sys2Proof.Proofs

open Sys2Proof Sys2Proof.Machine Sys2Proof.Safety Sys2Proof.Laws

/-! ### The frame of INGEST -/

@[simp] theorem ingested_input (s : State) (e : Extraction) : (ingested s e).input = s.input := rfl
@[simp] theorem ingested_issuer (s : State) (e : Extraction) : (ingested s e).issuer = s.issuer := rfl
@[simp] theorem ingested_draws (s : State) (e : Extraction) : (ingested s e).draws = s.draws := rfl

@[simp] theorem ingestChunk_input (chunk : List Byte) (s : State) : (ingestChunk chunk s).input = s.input := by
  rcases ingestChunk_cases chunk s with ⟨_, e⟩ | ⟨_, _, e⟩ | ⟨_, _, e⟩ <;> simp [e]

@[simp] theorem ingestChunk_issuer (chunk : List Byte) (s : State) : (ingestChunk chunk s).issuer = s.issuer := by
  rcases ingestChunk_cases chunk s with ⟨_, e⟩ | ⟨_, _, e⟩ | ⟨_, _, e⟩ <;> simp [e]

@[simp] theorem ingestChunk_draws (chunk : List Byte) (s : State) : (ingestChunk chunk s).draws = s.draws := by
  rcases ingestChunk_cases chunk s with ⟨_, e⟩ | ⟨_, _, e⟩ | ⟨_, _, e⟩ <;> simp [e]

/-! ### The frame of every instruction -/

/-- No instruction changes what the outside does next, or who issued the command. -/
theorem exec_outside_frame {i : Instr} {s t : State} (h : exec i s = .next t) :
    t.input = s.input ∧ t.issuer = s.issuer := by
  cases exec_effect h with
  | reset _ ht => simp [ht]
  | ingest chunk _ _ ht => simp [ht]
  | codec r _ _ _ _ ht => simp [ht]
  | send f fc p _ _ _ ht => simp [ht, sendBytes_eq]

/-- Only RESET and a chunk reach the framer's state (20_memory.md R48). -/
theorem exec_framer_frame {i : Instr} {s t : State} (h : exec i s = .next t) (hreset : i ≠ .reset)
    (hchunk : chunkOf s.cfg.fcSet i = none) : t.buf = s.buf ∧ t.faulted = s.faulted := by
  cases exec_effect h with
  | reset hi _ => exact absurd hi hreset
  | ingest chunk hc _ _ => rw [hc] at hchunk; cases hchunk
  | codec r _ _ _ _ ht => simp [ht]
  | send f fc p _ _ _ ht => simp [ht, sendBytes_eq]

/-- A codec command other than SEND writes its result and no event (20_memory.md R48). -/
theorem exec_codec_frame {i : Instr} {s t : State} (h : exec i s = .next t) (hcodec : isCodec i = true)
    (hsend : ∀ f c p, i ≠ .send f c p) : t = { s with result := t.result, events := [] } := by
  cases exec_effect h with
  | reset hi _ => rw [hi] at hcodec; cases hcodec
  | ingest chunk _ hn _ => rw [hn] at hcodec; cases hcodec
  | codec r _ _ _ _ ht => rw [ht]; rfl
  | send f fc p hi _ _ _ => exact absurd hi (hsend f fc p)

theorem exec_draws {i : Instr} {s t : State} (h : exec i s = .next t) :
    t.draws = s.draws ∨ ∃ f c p, i = .send f c p := by
  cases exec_effect h with
  | reset _ ht => exact .inl (by simp [ht])
  | ingest chunk _ _ ht => exact .inl (by simp [ht])
  | codec r _ _ _ _ ht => exact .inl (by simp [ht])
  | send f fc p hi _ _ _ => exact .inr ⟨f, fc, p, hi⟩

/-- Settles O31: each clause is a frame of the four effects an instruction can have. -/
theorem sideEffectsOfEveryInstruction : Obligations.SideEffectsOfEveryInstruction := by
  intro i s t h
  obtain ⟨hcfg, hclosed, hport⟩ := exec_frame h
  obtain ⟨hinput, hissuer⟩ := exec_outside_frame h
  exact ⟨hcfg, hclosed, hinput, hissuer, hport, exec_framer_frame h, exec_codec_frame h, exec_draws h⟩

/-! ### What an instruction submits to the TX port -/

/-- The block of one event, if the event is an EV_TX. -/
def eventBlock : Event → Option (List Byte)
  | .tx bytes => some bytes
  | _ => none

theorem txBytes_eq_filterMap (ev : List Event) : txBytes ev = ev.filterMap eventBlock := by
  induction ev with
  | nil => rfl
  | cons e ev ih => cases e <;> simp [txBytes, eventBlock, List.filterMap_cons, ih]

theorem map_bytes_map_mk (who : Requester) (xs : List (List Byte)) :
    (xs.map (TxBlock.mk who)).map TxBlock.bytes = xs := by
  rw [List.map_map]; exact List.map_id xs

/-- INGEST queues its EV_TX blocks as the framer's, behind all that wait (20_memory.md R50). -/
theorem ingestChunk_txQueue (chunk : List Byte) (s : State) :
    (ingestChunk chunk s).txQueue =
      s.txQueue ++ (txBytes (ingestChunk chunk s).events).map (TxBlock.mk .framer) := by
  rcases ingestChunk_cases chunk s with ⟨_, e⟩ | ⟨_, _, e⟩ | ⟨_, _, e⟩ <;> simp [e, txBytes]

/-- Whatever an instruction submits, it submits for one requester, the framer or the issuer: exactly the blocks of its
EV_TX events, in order, behind all that wait. -/
theorem exec_submits {i : Instr} {s t : State} (h : exec i s = .next t) :
    ∃ who, (who = .framer ∨ who = .sender s.issuer) ∧
      t.txQueue = s.txQueue ++ (txBytes t.events).map (TxBlock.mk who) := by
  cases exec_effect h with
  | reset _ ht => exact ⟨.framer, .inl rfl, by simp [ht, txBytes]⟩
  | ingest chunk _ _ ht => exact ⟨.framer, .inl rfl, ht ▸ ingestChunk_txQueue chunk s⟩
  | codec r _ _ _ _ ht => exact ⟨.framer, .inl rfl, by simp [ht, txBytes]⟩
  | send f fc p _ _ _ ht => exact ⟨.sender s.issuer, .inr rfl, by simp [ht, sendBytes_eq, txBytes]⟩

/-! ### The blocks of one requester -/

@[simp] theorem ofRequester_nil (r : Requester) : ofRequester r [] = [] := rfl

@[simp] theorem ofRequester_append (r : Requester) (xs ys : List TxBlock) :
    ofRequester r (xs ++ ys) = ofRequester r xs ++ ofRequester r ys :=
  List.filter_append ..

theorem ofRequester_eq_nil {r : Requester} {qs : List TxBlock} (h : ∀ q ∈ qs, q.requester ≠ r) :
    ofRequester r qs = [] :=
  List.filter_eq_nil_iff.mpr fun q hq => by simpa using h q hq

/-- A block may pass those of other requesters: no requester's own order changes. -/
theorem ofRequester_pass {pre : List TxBlock} {b : TxBlock} (h : ∀ q ∈ pre, q.requester ≠ b.requester)
    (r : Requester) : ofRequester r [b] ++ ofRequester r pre = ofRequester r pre ++ ofRequester r [b] := by
  by_cases hr : b.requester = r
  · have hpre : ofRequester r pre = [] := ofRequester_eq_nil (hr ▸ h)
    rw [hpre, List.append_nil, List.nil_append]
  · have hb : ofRequester r [b] = [] := ofRequester_eq_nil (by simpa using hr)
    rw [hb, List.append_nil, List.nil_append]

/-! ### The lock of the TX port -/

/-- The lock keeps what has left, and every requester's blocks in order across port and queue. -/
theorem grantTx_keeps_order (who : Requester) (s : State) :
    s.txPort <+: (grantTx who s).txPort ∧
    ∀ r, ofRequester r ((grantTx who s).txPort ++ (grantTx who s).txQueue) =
      ofRequester r (s.txPort ++ s.txQueue) := by
  obtain ⟨pre, b, post, hq, rfl, hpre, e⟩ | ⟨-, e⟩ := grantTx_cases who s <;> rw [e]
  · refine ⟨List.prefix_append _ _, fun r => ?_⟩
    calc ofRequester r (s.txPort ++ [b] ++ (pre ++ post))
        = ofRequester r s.txPort ++ (ofRequester r [b] ++ ofRequester r pre ++ ofRequester r post) := by
          simp only [ofRequester_append, List.append_assoc]
      _ = ofRequester r s.txPort ++ (ofRequester r pre ++ ofRequester r [b] ++ ofRequester r post) := by
          rw [ofRequester_pass hpre]
      _ = ofRequester r (s.txPort ++ s.txQueue) := by
          rw [hq, List.append_cons pre]; simp only [ofRequester_append, List.append_assoc]
  · exact ⟨List.prefix_refl _, fun _ => rfl⟩

/-- Setting the configuration inputs leaves the TX port and its queue. -/
theorem configure_tx_frame {c : Config} {s t : State} (h : configure c s = .next t) :
    t.txPort = s.txPort ∧ t.txQueue = s.txQueue := by
  obtain ⟨-, -, rfl⟩ | ⟨-, -, rfl⟩ := configure_next h <;> exact ⟨rfl, rfl⟩

/-- Settles O35: only an executed word submits blocks, those of its events, and the lock only moves a block past
blocks of other requesters. -/
theorem txPortKeepsEachRequestersOrder : Obligations.TxPortKeepsEachRequestersOrder := by
  intro s t h
  obtain ⟨hi, rfl⟩ | ⟨who, word, rest, i, hi, -, he⟩ | ⟨c, rest, hi, hc⟩ | ⟨who, rest, hi, rfl⟩ := step_cases h
  · exact ⟨List.prefix_refl _, [], by simp, by simp, by simp [hi]⟩
  · obtain ⟨-, -, hport⟩ := exec_frame he
    obtain ⟨req, hby, hqueue⟩ := exec_submits he
    simp only [issue_txPort, issue_txQueue, issue_issuer] at hport hqueue hby
    refine ⟨by rw [hport], (txBytes t.events).map (TxBlock.mk req), ?_, ?_, ?_⟩
    · intro r
      rw [hport, hqueue, ← List.append_assoc, ofRequester_append]
    · exact fun hno => absurd hi (hno who word rest)
    · intro who' word' rest' hi'
      cases hi.symm.trans hi'
      refine ⟨(map_bytes_map_mk req _).trans (txBytes_eq_filterMap t.events), fun q hq => ?_⟩
      obtain ⟨x, -, rfl⟩ := List.mem_map.mp hq
      exact hby
  · obtain ⟨hport, hqueue⟩ := configure_tx_frame hc
    exact ⟨by rw [hport], [], by simp [hport, hqueue], by simp, by simp [hi]⟩
  · obtain ⟨hport, horder⟩ := grantTx_keeps_order who { s with input := rest }
    exact ⟨hport, [], fun r => by simpa using horder r, by simp, by simp [hi]⟩

/-- The lock takes the first block of its requester out of the queue: the converse of `takeOldest_some`. -/
theorem takeOldest_of_first {r : Requester} {pre : List TxBlock} {q : TxBlock} (post : List TxBlock)
    (hq : q.requester = r) (hpre : ∀ p ∈ pre, p.requester ≠ r) :
    takeOldest r (pre ++ q :: post) = some (q, pre ++ post) := by
  induction pre with
  | nil => simp [takeOldest, hq]
  | cons p pre ih =>
    obtain ⟨hp, hpre⟩ := List.forall_mem_cons.mp hpre
    simp [takeOldest, hp, ih hpre]

theorem step_grant {s : State} {r : Requester} {rest : List Input} (h : s.input = .grant r :: rest) :
    step s = .next (grantTx r { s with input := rest }) := by
  simp [step, h]

/-- Settles O36: the grant takes the requester's first block, or finds none. -/
theorem txLockServesAnyRequester : Obligations.TxLockServesAnyRequester := by
  intro s r rest h
  rw [step_grant h]
  constructor
  · intro pre q post hqueue hq hpre
    simp [grantTx, hqueue, takeOldest_of_first post hq hpre]
  · intro hnone
    simp [grantTx, takeOldest_none.mpr hnone]

end Sys2Proof.Proofs
end

section
/-! PROOFS. The family 30_encoding.md, the words: the op table as operand forms, decoding against encoding, and
commands of the wrong length. -/

namespace Sys2Proof.Proofs

open Sys2Proof Sys2Proof.Machine Sys2Proof.Safety Sys2Proof.Laws

/-! ### The operand forms of the op table -/

/-- The operand forms of 30_encoding.md R67, each with the instructions it makes; `any` is a reserved op's. -/
inductive Operands where
  | none (i : Instr)
  | counted (mk : List Byte → Instr)
  | block (mk : BitVec 2 → Byte → List Byte → Instr)
  | any (mk : List Byte → Instr)

/-- The operand column of R67: the form of each op number. -/
def operandsOf : Nat → Option Operands
  | 0x0 => some (.none .reset)
  | 0x1 => some (.counted .ingest)
  | 0x2 => some (.counted .csum)
  | 0x3 => some (.counted .verify)
  | 0x4 => some (.block .serialize)
  | 0x5 => some (.counted .deserialize)
  | 0x6 => some (.block .send)
  | 0x7 => some (.any .reservedOp7)
  | 0x8 => some (.none .mkAckStandby)
  | 0x9 => some (.none .mkAckDisconnect)
  | 0xA => some (.none .mkAck)
  | 0xB => some (.none .mkReject)
  | 0xC => some (.none .mkRemoteLogin)
  | 0xD => some (.none .mkConfiguration)
  | 0xE => some (.any .reservedOpE)
  | 0xF => some (.any .reservedOpF)
  | _ => Option.none

/-- The model's decoder of each form. -/
def Operands.decode : Operands → List Byte → Except DecodeError Instr
  | .none i => decodeNone i
  | .counted mk => decodeCounted mk
  | .block mk => decodeBlockOperands mk
  | .any mk => fun rest => .ok (mk rest)

/-- `o.Word rest i`: in the form `o` the operand bytes `rest` stand for the instruction `i`. -/
inductive Operands.Word : Operands → List Byte → Instr → Prop
  | none (i : Instr) : Word (.none i) [] i
  | counted (mk : List Byte → Instr) (x : List Byte) (h : x.length ≤ maxCount) :
      Word (.counted mk) (BitVec.ofNat 8 x.length :: x) (mk x)
  | block (mk : BitVec 2 → Byte → List Byte → Instr) (f : BitVec 2) (fc : Byte) (p : List Byte)
      (h : p.length ≤ maxCount) :
      Word (.block mk) (f.setWidth 8 :: fc :: BitVec.ofNat 8 p.length :: p) (mk f fc p)
  | any (mk : List Byte → Instr) (x : List Byte) : Word (.any mk) x (mk x)

/-- `decodeOp` is the decoder of the op's form, and an op number with no form is an illegal byte 0. -/
theorem decodeOp_eq (op : Nat) (rest : List Byte) :
    decodeOp op rest = (operandsOf op).elim (.error .illegalOpByte) (·.decode rest) := by
  unfold decodeOp
  split
  case h_17 => simp only [operandsOf, Option.elim]
  all_goals rfl

theorem decodeCommand_of_form {op : Byte} {o : Operands} (h : operandsOf op.toNat = some o) (rest : List Byte) :
    decodeCommand (op :: rest) = o.decode rest := by
  rw [decodeCommand, decodeOp_eq, h]; rfl

theorem decodeCommand_of_no_form {op : Byte} (h : operandsOf op.toNat = none) (rest : List Byte) :
    decodeCommand (op :: rest) = .error .illegalOpByte := by
  rw [decodeCommand, decodeOp_eq, h]; rfl

/-- The encoder writes the op byte and then the operand bytes of the op's form. -/
theorem encode_of_word (t : FcTable) {op : Byte} {o : Operands} {rest : List Byte} {i : Instr}
    (h : operandsOf op.toNat = some o) (hw : o.Word rest i) : encode t i = .command (op :: rest) := by
  have hop : op = BitVec.ofNat 8 op.toNat := by simp
  generalize op.toNat = n at h hop
  subst hop
  unfold operandsOf at h
  split at h <;> cases h <;> cases hw <;> rfl

/-! ### One operand form, decoded and encoded -/

theorem count_toNat {n : Nat} (h : n ≤ maxCount) : (BitVec.ofNat 8 n).toNat = n := by
  rw [BitVec.toNat_ofNat]; exact Nat.mod_eq_of_lt (Nat.lt_succ_of_le h)

theorem decodeExactly_count {xs : List Byte} (h : xs.length ≤ maxCount) (i : Instr) :
    decodeExactly (BitVec.ofNat 8 xs.length).toNat xs i = .ok i := by
  rw [count_toNat h]; simp [decodeExactly]

theorem decodeExactly_ok {n : Byte} {xs : List Byte} {i j : Instr} (h : decodeExactly n.toNat xs i = .ok j) :
    xs.length ≤ maxCount ∧ n = BitVec.ofNat 8 xs.length ∧ j = i := by
  obtain ⟨_, e⟩ | ⟨_, e⟩ | ⟨hl, e⟩ := decodeExactly_cases n.toNat xs i <;> rw [e] at h <;> cases h
  exact ⟨hl ▸ Nat.le_of_lt_succ n.isLt, by rw [hl, BitVec.ofNat_toNat, BitVec.setWidth_eq], rfl⟩

/-- A SERIALIZE or SEND flags byte holds its two flags and nothing else. -/
theorem extract_flagsByte (f : BitVec 2) :
    (f.setWidth 8).extractLsb' 2 6 = 0 ∧ (f.setWidth 8).extractLsb' 0 2 = f := by
  revert f; decide

theorem flagsByte_of_legal {b : Byte} (h : b.extractLsb' 2 6 = 0) : b = (b.extractLsb' 0 2).setWidth 8 := by
  have hb := b.isLt
  have hz : b.toNat / 4 % 64 = 0 := by
    simpa [BitVec.extractLsb'_toNat, Nat.shiftRight_eq_div_pow] using congrArg BitVec.toNat h
  apply BitVec.eq_of_toNat_eq
  rw [BitVec.toNat_setWidth, BitVec.extractLsb'_toNat, Nat.shiftRight_zero]
  omega

theorem decode_of_word {o : Operands} {rest : List Byte} {i : Instr} (h : o.Word rest i) : o.decode rest = .ok i := by
  cases h with
  | none => rfl
  | counted mk x h => exact decodeExactly_count h _
  | block mk f fc p h =>
    obtain ⟨hz, hf⟩ := extract_flagsByte f
    rw [Operands.decode, decodeBlockOperands, if_neg (not_not.mpr hz), hf, decodeExactly_count h]
  | any => rfl

/-- No other operand bytes decode: the converse of `decode_of_word`. -/
theorem word_of_decode {o : Operands} {rest : List Byte} {i : Instr} (h : o.decode rest = .ok i) : o.Word rest i := by
  cases o with
  | none =>
    cases rest with
    | nil => cases h; exact .none i
    | cons => cases h
  | counted mk =>
    cases rest with
    | nil => cases h
    | cons n x =>
      obtain ⟨hl, rfl, rfl⟩ := decodeExactly_ok h
      exact .counted mk x hl
  | block mk =>
    match rest with
    | b :: fc :: n :: p =>
      rw [Operands.decode, decodeBlockOperands] at h
      split at h
      · cases h
      · next hz =>
        obtain ⟨hl, rfl, rfl⟩ := decodeExactly_ok h
        have hword := Operands.Word.block mk (b.extractLsb' 0 2) fc p hl
        rwa [← flagsByte_of_legal (Decidable.not_not.mp hz)] at hword
    | [] => cases h
    | [_] => cases h
    | [_, _] => cases h
  | any mk => cases h; exact .any mk rest

/-- Settles O43: the bytes are the op and a word of its form, and that is what the encoder writes. -/
theorem encodeDecodeGivesBackTheCommand : Obligations.EncodeDecodeGivesBackTheCommand := by
  intro t bytes i h
  cases bytes with
  | nil => cases h
  | cons op rest =>
    cases ho : operandsOf op.toNat with
    | none => rw [decodeCommand_of_no_form ho] at h; cases h
    | some o =>
      rw [decodeCommand_of_form ho] at h
      exact encode_of_word t ho (word_of_decode h)

/-! ### Every well-formed instruction's word -/

/-- The three kinds of rows of opcode_table.json (30_encoding.md R60, R63, R67). -/
inductive Row (t : FcTable) (i : Instr) : Prop where
  | command (op : Byte) (o : Operands) (rest : List Byte) (ho : operandsOf op.toNat = some o) (hw : o.Word rest i)
  | code (code : FunctionCode) (f : BitVec 2) (p : List Byte) (cs : Byte) (hp : p.length ≤ maxPayload)
      (hi : i = Instr.ofCode code f p cs)
  | block (f : BitVec 2) (fc : Byte) (p : List Byte) (cs : Byte) (hp : p.length ≤ maxPayload) (hm : fc ∉ t.members)
      (hi : i = .block f fc p cs)

/-- Found by trying each name of the list, so that 27 rows need not be written out. -/
theorem row_of_code {t : FcTable} {i : Instr} {f : BitVec 2} {p : List Byte} {cs : Byte} (hp : p.length ≤ maxPayload)
    (h : ∃ code ∈ FunctionCode.all, i = Instr.ofCode code f p cs) : Row t i := by
  obtain ⟨code, -, hi⟩ := h
  exact .code code f p cs hp hi

theorem row_of_wellFormed {t : FcTable} {i : Instr} (h : i.wellFormed t = true) : Row t i := by
  cases i with
  | reset => exact .command 0x00 _ _ rfl (.none _)
  | ingest x => exact .command 0x01 _ _ rfl (.counted _ x (of_decide_eq_true h))
  | csum x => exact .command 0x02 _ _ rfl (.counted _ x (of_decide_eq_true h))
  | verify x => exact .command 0x03 _ _ rfl (.counted _ x (of_decide_eq_true h))
  | serialize f fc p => exact .command 0x04 _ _ rfl (.block _ f fc p (Nat.le_trans (of_decide_eq_true h) (by decide)))
  | deserialize x => exact .command 0x05 _ _ rfl (.counted _ x (of_decide_eq_true h))
  | send f fc p => exact .command 0x06 _ _ rfl (.block _ f fc p (Nat.le_trans (of_decide_eq_true h) (by decide)))
  | reservedOp7 x => exact .command 0x07 _ _ rfl (.any _ x)
  | mkAckStandby => exact .command 0x08 _ _ rfl (.none _)
  | mkAckDisconnect => exact .command 0x09 _ _ rfl (.none _)
  | mkAck => exact .command 0x0A _ _ rfl (.none _)
  | mkReject => exact .command 0x0B _ _ rfl (.none _)
  | mkRemoteLogin => exact .command 0x0C _ _ rfl (.none _)
  | mkConfiguration => exact .command 0x0D _ _ rfl (.none _)
  | reservedOpE x => exact .command 0x0E _ _ rfl (.any _ x)
  | reservedOpF x => exact .command 0x0F _ _ rfl (.any _ x)
  | block f fc p cs =>
    obtain ⟨hp, hm⟩ : p.length ≤ maxPayload ∧ fc ∉ t.members := by simpa [Instr.wellFormed] using h
    exact .block f fc p cs hp hm rfl
  | _ f p cs => exact row_of_code (f := f) (cs := cs) (of_decide_eq_true h) (by simp [FunctionCode.all, Instr.ofCode])

theorem encode_ofCode (t : FcTable) (code : FunctionCode) (f : BitVec 2) (p : List Byte) (cs : Byte) :
    encode t (Instr.ofCode code f p cs) = .unit (unitBytes f (t.byte code) p cs) := by
  cases code <;> rfl

/-- The unit decoder takes a unit's fields back out of its bytes. -/
theorem decodeUnit_unitBytes (t : FcTable) (f : BitVec 2) (fc : Byte) {p : List Byte} (cs : Byte)
    (hp : p.length ≤ maxPayload) : decodeUnit t (unitBytes f fc p cs) = .ok (unitInstr t f fc p cs) := by
  rw [unitBytes_eq, decodeUnit, headerLen_headerByte f hp, headerFlags_headerByte]
  simp

theorem unitInstr_byte {t : FcTable} (ht : t.distinct) (code : FunctionCode) (f : BitVec 2) (p : List Byte)
    (cs : Byte) : unitInstr t f (t.byte code) p cs = Instr.ofCode code f p cs := by
  rw [unitInstr, nameOf_byte ht]

theorem unitInstr_not_member {t : FcTable} {fc : Byte} (hm : fc ∉ t.members) (f : BitVec 2) (p : List Byte)
    (cs : Byte) : unitInstr t f fc p cs = .block f fc p cs := by
  rw [unitInstr, (nameOf_eq_none t fc).mpr hm]

/-- Settles O42: a command is decoded by its operand form, a unit by its header and the name of its byte 1. -/
theorem decodeEncodeGivesBackTheInstruction : Obligations.DecodeEncodeGivesBackTheInstruction := by
  intro t i ht h
  cases row_of_wellFormed h with
  | command op o rest ho hw =>
    rw [encode_of_word t ho hw, decode, decodeCommand_of_form ho, decode_of_word hw]
  | code code f p cs hp hi =>
    rw [hi, encode_ofCode, decode, decodeUnit_unitBytes t f _ cs hp, unitInstr_byte ht]
  | block f fc p cs hp hm hi =>
    rw [hi, encode, decode, decodeUnit_unitBytes t f fc cs hp, unitInstr_not_member hm]

theorem default_distinct : FcTable.default.distinct := by decide

/-- Settles O44: each word is the encoding of its instruction, so O42 decodes it. -/
theorem wordsOfTheSpecDecode : Obligations.WordsOfTheSpecDecode := by
  have back {i : Instr} (h : i.wellFormed FcTable.default = true) :=
    decodeEncodeGivesBackTheInstruction FcTable.default i default_distinct h
  exact ⟨back (i := .reset) rfl, back (i := .ingest _) rfl, back (i := .send 0 0x3F [0x31, 0x32, 0x33, 0x34]) rfl,
    back (i := .mkReject) rfl, back (i := .reservedOp7 _) rfl,
    back (i := .accountId 1 [0x31, 0x32, 0x33, 0x34] 0x9C) rfl⟩

/-! ### Words of the wrong length -/

theorem length_lt_append (a : List Byte) {b : List Byte} (hb : b ≠ []) : a.length < (a ++ b).length := by
  rw [List.length_append]
  exact Nat.lt_add_of_pos_right (List.length_pos_iff.mpr hb)

theorem decodeExactly_truncated {a b : List Byte} (h : (a ++ b).length ≤ maxCount) (hb : b ≠ []) (i : Instr) :
    decodeExactly (BitVec.ofNat 8 (a ++ b).length).toNat a i = .error .commandTooShort := by
  rw [count_toNat h, decodeExactly, if_pos (length_lt_append a hb)]

theorem decodeExactly_extended {a b : List Byte} (h : a.length ≤ maxCount) (hb : b ≠ []) (i : Instr) :
    decodeExactly (BitVec.ofNat 8 a.length).toNat (a ++ b) i = .error .commandTooLong := by
  have hlt := length_lt_append a hb
  rw [count_toNat h, decodeExactly, if_neg (Nat.lt_asymm hlt), if_pos hlt]

/-- A form other than a reserved op's fixes the number of its bytes: with some missing they are too short. -/
theorem decode_truncated_word {o : Operands} {rest a b : List Byte} {i : Instr} (hw : o.Word rest i)
    (hr : a ++ b = rest) (hb : b ≠ []) (hfixed : ∀ mk, o ≠ .any mk) : o.decode a = .error .commandTooShort := by
  cases hw with
  | none => exact absurd (List.append_eq_nil_iff.mp hr).2 hb
  | counted mk x h =>
    match a, hr with
    | [], _ => rfl
    | n :: a', hr =>
      obtain ⟨rfl, rfl⟩ := List.cons_eq_cons.mp hr
      exact decodeExactly_truncated h hb _
  | block mk f fc p h =>
    match a, hr with
    | [], _ => rfl
    | [_], _ => rfl
    | [_, _], _ => rfl
    | b :: c :: n :: a', hr =>
      simp only [List.cons_append, List.cons.injEq] at hr
      obtain ⟨rfl, rfl, rfl, rfl⟩ := hr
      rw [Operands.decode, decodeBlockOperands, if_neg (not_not.mpr (extract_flagsByte f).1),
        decodeExactly_truncated h hb]
  | any mk => exact absurd rfl (hfixed mk)

/-- With bytes behind the operands of such a form, they are too long. -/
theorem decode_extended_word {o : Operands} {rest x : List Byte} {i : Instr} (hw : o.Word rest i) (hx : x ≠ [])
    (hfixed : ∀ mk, o ≠ .any mk) : o.decode (rest ++ x) = .error .commandTooLong := by
  cases hw with
  | none =>
    cases x with
    | nil => exact absurd rfl hx
    | cons => rfl
  | counted mk y h => exact decodeExactly_extended h hx _
  | block mk f fc p h =>
    change decodeBlockOperands mk (f.setWidth 8 :: fc :: _ :: (p ++ x)) = _
    rw [decodeBlockOperands, if_neg (not_not.mpr (extract_flagsByte f).1), decodeExactly_extended h hx]
  | any mk => exact absurd rfl (hfixed mk)

/-- Only the three reserved ops take any bytes. -/
theorem reserved_of_any {n : Nat} {mk : List Byte → Instr} (h : operandsOf n = some (.any mk)) :
    mk = .reservedOp7 ∨ mk = .reservedOpE ∨ mk = .reservedOpF := by
  unfold operandsOf at h
  split at h <;> cases h <;> simp

/-- Settles O41: a command that is not a reserved op has a form that fixes its length. -/
theorem commandLengthIsExact : Obligations.CommandLengthIsExact := by
  intro t i bytes h henc hres
  cases row_of_wellFormed h with
  | command op o rest ho hw =>
    obtain rfl : op :: rest = bytes := PortWord.command.inj ((encode_of_word t ho hw).symm.trans henc)
    have hfixed : ∀ mk, o ≠ .any mk := by
      rintro mk rfl
      cases hw
      obtain ⟨h7, hE, hF⟩ := hres rest
      obtain rfl | rfl | rfl := reserved_of_any ho
      · exact h7 rfl
      · exact hE rfl
      · exact hF rfl
    constructor
    · intro a b hab hb
      match a, hab with
      | [], _ => rfl
      | c :: a', hab =>
        obtain ⟨rfl, hr⟩ := List.cons_eq_cons.mp hab
        rw [decodeCommand_of_form ho, decode_truncated_word hw hr hb hfixed]
    · intro x hx
      rw [List.cons_append, decodeCommand_of_form ho, decode_extended_word hw hx hfixed]
  | code code f p cs hp hi => rw [hi, encode_ofCode] at henc; cases henc
  | block f fc p cs hp hm hi => rw [hi] at henc; cases henc

end Sys2Proof.Proofs
end

section
/-! PROOFS. The family 30_encoding.md, the machine's side: a step on a word, the refused words, the checksum's columns,
FC_SET, the port bytes, the wire units and the SEND pseudo-commands. -/

namespace Sys2Proof.Proofs

open Sys2Proof Sys2Proof.Machine Sys2Proof.Safety Sys2Proof.Laws

/-! ### A step on a word -/

theorem step_of_decode_ok {s : State} {who : Issuer} {word : PortWord} {rest : List Input} {i : Instr}
    (h : s.input = .port who word :: rest) (hd : decode s.cfg.fcSet word = .ok i) :
    step s = exec i (s.issue who rest) := by
  simp [step, h, fetch, hd]

theorem step_of_decode_error {s : State} {who : Issuer} {word : PortWord} {rest : List Input} {e : DecodeError}
    (h : s.input = .port who word :: rest) (hd : decode s.cfg.fcSet word = .error e) :
    step s = .refused (.undecodable e) := by
  simp [step, h, fetch, hd]

/-- Settles O39: `issue` takes the word, records its issuer and closes the configuration. -/
theorem stepRunsTheDecodedInstruction : Obligations.StepRunsTheDecodedInstruction :=
  fun _ _ _ _ h => ⟨fun _ hd => step_of_decode_ok h hd, fun _ hd => step_of_decode_error h hd⟩

/-! ### Refused words -/

theorem operandsOf_eq_none {n : Nat} (h : 16 ≤ n) : operandsOf n = none := by
  unfold operandsOf
  split
  case h_17 => rfl
  all_goals omega

/-- A byte 0 with a bit of [7:4] set is no op. -/
theorem toNat_ge_of_highNibble {op : Byte} (h : op.extractLsb' 4 4 ≠ 0) : 16 ≤ op.toNat := by
  contrapose! h
  apply BitVec.eq_of_toNat_eq
  rw [BitVec.extractLsb'_toNat, Nat.shiftRight_eq_div_pow, Nat.div_eq_of_lt h]; rfl

/-- An illegal flags byte is refused, as too short where the function code or the count is missing too. -/
theorem decodeBlockOperands_illegalFlags (mk : BitVec 2 → Byte → List Byte → Instr) {flags : Byte} (tail : List Byte)
    (h : flags.extractLsb' 2 6 ≠ 0) : ∃ e, decodeBlockOperands mk (flags :: tail) = .error e := by
  match tail with
  | [] => exact ⟨_, rfl⟩
  | [_] => exact ⟨_, rfl⟩
  | _ :: _ :: _ => exact ⟨_, if_pos h⟩

/-- Settles O40: the reserved ops decode to what `exec` refuses, and the other illegal words do not decode. -/
theorem reservedAndIllegalWordsAreRefused : Obligations.ReservedAndIllegalWordsAreRefused := by
  refine ⟨fun s x => ⟨rfl, rfl, rfl⟩, fun s who op bytes rest h => ⟨?_, ?_, ?_⟩⟩
  · rintro (rfl | rfl | rfl)
    · exact step_of_decode_ok h (i := .reservedOp7 bytes) rfl
    · exact step_of_decode_ok h (i := .reservedOpE bytes) rfl
    · exact step_of_decode_ok h (i := .reservedOpF bytes) rfl
  · intro hop
    exact step_of_decode_error h (decodeCommand_of_no_form (operandsOf_eq_none (toNat_ge_of_highNibble hop)) bytes)
  · rintro flags tail (rfl | rfl) rfl hf
    · obtain ⟨e, he⟩ := decodeBlockOperands_illegalFlags .serialize tail hf
      exact ⟨e, step_of_decode_error h he⟩
    · obtain ⟨e, he⟩ := decodeBlockOperands_illegalFlags .send tail hf
      exact ⟨e, step_of_decode_error h he⟩

/-! ### The checksum's columns -/

theorem exec_csum (x : List Byte) (s : State) :
    exec (.csum x) s = .next (s.answer (some (.checksum (xorfold csumSeed x))) []) := rfl

/-- Complementing the start of a parity complements the parity. -/
theorem foldl_xor_not (col : Byte → Bool) (xs : List Byte) (a : Bool) :
    xs.foldl (fun acc b => acc ^^ col b) (!a) = !(xs.foldl (fun acc b => acc ^^ col b) a) := by
  induction xs generalizing a with
  | nil => rfl
  | cons x xs ih => rw [List.foldl_cons, List.foldl_cons, Bool.not_xor, ih]

theorem csumSeed_getLsbD {i : Nat} (h : i < 8) : (csumSeed : Byte).getLsbD i = true := by
  revert i; decide

/-- Settles O21: the seed's bit is 1 in every column, so each column's parity is complemented once. -/
theorem csumIsTheColumnParity : Obligations.CsumIsTheColumnParity := by
  intro x s
  refine ⟨exec_csum x s, fun i hi => ?_⟩
  rw [xorfold_getLsbD, csumSeed_getLsbD hi]
  exact foldl_xor_not (·.getLsbD i) x false

/-! ### FC_SET -/

theorem members_length (t : FcTable) : t.members.length = 27 := rfl

/-- Every byte value, once. -/
def allBytes : List Byte :=
  (List.range 256).map (BitVec.ofNat 8)

theorem allBytes_nodup : allBytes.Nodup := by
  refine List.Nodup.map_on (fun a ha b hb hab => ?_) List.nodup_range
  rw [List.mem_range] at ha hb
  have := congrArg BitVec.toNat hab
  rwa [BitVec.toNat_ofNat, BitVec.toNat_ofNat, Nat.mod_eq_of_lt ha, Nat.mod_eq_of_lt hb] at this

theorem mem_allBytes (b : Byte) : b ∈ allBytes :=
  List.mem_map.mpr ⟨b.toNat, List.mem_range.mpr b.isLt, by simp⟩

/-- The byte values in FC_SET are its members, each once. -/
theorem allBytes_filter_mem {t : FcTable} (ht : t.distinct) : (allBytes.filter (· ∈ t.members)).length = 27 := by
  have hperm : (allBytes.filter (· ∈ t.members)).Perm t.members :=
    (List.perm_ext_iff_of_nodup (allBytes_nodup.filter _) ht).mpr fun b => by simp [mem_allBytes]
  rw [hperm.length_eq, members_length]

theorem range_filter_not_mem {t : FcTable} (ht : t.distinct) :
    ((List.range 256).filter fun n => BitVec.ofNat 8 n ∉ t.members).length = 229 := by
  have hmem := allBytes_filter_mem ht
  have hsplit := List.length_eq_length_filter_add (l := List.range 256) fun n => decide (BitVec.ofNat 8 n ∈ t.members)
  rw [allBytes, List.filter_map, List.length_map] at hmem
  simp only [Function.comp_def] at hmem
  rw [hmem, List.length_range] at hsplit
  simp only [decide_not]
  omega

theorem operandRefusal_of_not_mem {t : FcTable} {fc : Byte} (h : fc ∉ t.members) (p : List Byte) :
    operandRefusal t fc p = some .invalidFunctionCode := if_pos h

theorem exec_serialize (f : BitVec 2) (fc : Byte) (p : List Byte) (s : State) :
    exec (.serialize f fc p) s =
      orRefuse (operandRefusal s.cfg.fcSet fc p) (.next (s.answer (some (.serialized (serializeBytes f fc p))) [])) :=
  rfl

theorem exec_send (f : BitVec 2) (fc : Byte) (p : List Byte) (s : State) :
    exec (.send f fc p) s =
      orRefuse (operandRefusal s.cfg.fcSet fc p) (.next (sendBytes (serializeBytes f fc p) s)) := rfl

theorem exec_block (f : BitVec 2) (fc : Byte) (p : List Byte) (cs : Byte) (s : State) :
    exec (.block f fc p cs) s = .next (ingestChunk (unitBytes f fc p cs) s) := rfl

theorem unitBytes_length (f : BitVec 2) (fc : Byte) (p : List Byte) (cs : Byte) :
    (unitBytes f fc p cs).length = p.length + 3 := by
  simp [unitBytes]

/-- A unit fits an empty buffer. -/
theorem unit_size_le {p : List Byte} (h : p.length ≤ maxPayload) : p.length + 3 ≤ bufCap :=
  Nat.le_trans (Nat.add_le_add_right h 3) (by decide)

theorem pass_badFunctionCode {t : FcTable} {buf : List Byte} (h3 : 3 ≤ buf.length) (hm : buf.getD 1 0 ∉ t.members) :
    framerPass t buf = .badFunctionCode := by
  rcases pass_cases t buf with ⟨h, _⟩ | ⟨_, _, e⟩ | ⟨_, h, _⟩ | ⟨_, h, _⟩ | ⟨_, h, _⟩
  · omega
  · exact e
  all_goals exact absurd h hm

/-- An empty framer drops the header of a unit whose byte 1 is no member (40_framer.md R85). -/
theorem ingestChunk_unit_not_member {s : State} (hf : s.faulted = false) (hb : s.buf = []) (f : BitVec 2) {fc : Byte}
    (hm : fc ∉ s.cfg.fcSet.members) {p : List Byte} (hp : p.length ≤ maxPayload) (cs : Byte) :
    (ingestChunk (unitBytes f fc p cs) s).events.head? = some .resync := by
  have hlen := unitBytes_length f fc p cs
  have hpass : framerPass s.cfg.fcSet (unitBytes f fc p cs) = .badFunctionCode :=
    pass_badFunctionCode (by omega) hm
  rw [ingestChunk_runs hf (by rw [hb, hlen, List.length_nil, Nat.zero_add]; exact unit_size_le hp), ingested_events,
    hb, List.nil_append]
  rw [unitBytes_eq] at hpass ⊢
  rw [extract_badFunctionCode hpass]; rfl

/-- Settles O45: 27 of the 256 byte values are the members; the framer drops the others and the codec refuses them. -/
theorem functionCodeMembership : Obligations.FunctionCodeMembership := by
  intro t ht
  refine ⟨byte_mem_members t, range_filter_not_mem ht, ?_, ?_⟩
  · rintro s fc rfl hf hb hm f p cs hp
    exact ⟨_, exec_block f fc p cs s, ingestChunk_unit_not_member hf hb f hm hp cs⟩
  · rintro s fc rfl hm f p
    rw [exec_serialize, exec_send, operandRefusal_of_not_mem hm]
    exact ⟨rfl, rfl⟩

/-! ### The port bytes -/

theorem resultBytes_some {s : State} {r : Result} (h : s.result = some r) :
    s.resultBytes = Machine.resultBytes r := by
  rw [State.resultBytes, h]

theorem resultBytes_none {s : State} (h : s.result = none) : s.resultBytes = [] := by
  rw [State.resultBytes, h]

theorem eventBytes_nil {s : State} (h : s.events = []) : s.eventBytes = [] := by
  rw [State.eventBytes, h]; rfl

theorem eventBytes_cons {s : State} {e : Event} {rest : List Event} (h : s.events = e :: rest) :
    s.eventBytes = Machine.eventBytes e ++ { s with events := rest }.eventBytes := by
  rw [State.eventBytes, h]; rfl

/-- Settles O46: row by row of R68. -/
theorem portCodes : Obligations.PortCodes := by
  intro s
  refine ⟨resultBytes_none, resultBytes_some, resultBytes_some, ?_, fun _ => resultBytes_some, ?_,
    fun _ => resultBytes_some, resultBytes_some, resultBytes_some, resultBytes_some, resultBytes_some,
    eventBytes_nil, ?_⟩
  · rintro b (h | h | h) <;> exact resultBytes_some h
  · rintro ok (h | h) <;> exact resultBytes_some h
  · intro e rest x h
    refine ⟨?_, ?_, ?_, ?_⟩ <;> rintro rfl <;> exact eventBytes_cons h

/-! ### Wire units -/

/-- Settles O48: the header byte is `headerByte`, and the unit's row is executed as the INGEST of its bytes. -/
theorem wireUnitsAreIngests : Obligations.WireUnitsAreIngests := by
  constructor
  · intro code f p cs s hp
    refine ⟨headerByte f p.length, headerFlags_headerByte f _, headerLen_headerByte f hp, ?_, _, exec_ofCode ..⟩
    rw [exec_ofCode, exec_ingest]; rfl
  · intro fc f p cs s hp
    exact ⟨headerByte f p.length, headerFlags_headerByte f _, headerLen_headerByte f hp, rfl, _,
      exec_block f fc p cs s⟩

/-- INGEST returns a valid Block that stands at the front of the buffer and the chunk, and takes exactly its bytes. -/
theorem ingestChunk_validBlock {s : State} {chunk rest : List Byte} {b : Block} (hf : s.faulted = false)
    (hl : s.buf.length + chunk.length ≤ bufCap) (hv : ValidBlock s.cfg.fcSet b) (h : s.buf ++ chunk = b.bytes ++ rest) :
    ingestChunk chunk s = { s with buf := rest, result := some (.block b), events := [] } := by
  obtain ⟨hlen, hm, hc⟩ := hv
  have hpass : framerPass s.cfg.fcSet (b.bytes ++ rest) = .found b.bytes.length :=
    (pass_bytes b rest hm hlen).trans (if_pos hc.symm)
  have hblock : blockAt b.bytes.length (b.bytes ++ rest) = b := by rw [bytes_length, blockAt_bytes]
  rw [ingestChunk_runs hf hl, h, extract_found hpass, hblock, List.drop_left, ingested_quiet]; rfl

/-- A unit with the right checksum byte is the bytes of `makeBlock`, which an empty framer returns. -/
theorem ingestChunk_unit_member {s : State} (hf : s.faulted = false) (hb : s.buf = []) (f : BitVec 2) {fc : Byte}
    (hm : fc ∈ s.cfg.fcSet.members) {p : List Byte} (hp : p.length ≤ maxPayload) :
    ingestChunk (unitBytes f fc p (checksum (headerByte f p.length :: fc :: p))) s =
      { s with result := some (.block (makeBlock f fc p)), events := [] } := by
  have hcap : s.buf.length + (makeBlock f fc p).bytes.length ≤ bufCap := by
    rw [hb, bytes_length, makeBlock_payload, List.length_nil, Nat.zero_add]; exact unit_size_le hp
  have h := ingestChunk_validBlock (rest := []) hf hcap (validBlock_makeBlock f hm hp) (by rw [hb]; simp)
  rw [← hb] at h
  exact h

/-- Settles O49: both kinds of rows are the INGEST of a valid Block's bytes. -/
theorem wellFormedUnitsAreReturned : Obligations.WellFormedUnitsAreReturned := by
  intro f p s hp hf hb
  constructor
  · intro code
    refine ⟨makeBlock f (s.cfg.fcSet.byte code) p,
      headerFlags_headerByte f _, headerLen_headerByte f hp, rfl, rfl, ?_⟩
    rw [exec_ofCode, ← ingestChunk_unit_member hf hb f (byte_mem_members s.cfg.fcSet code) hp]; rfl
  · intro fc hm
    refine ⟨makeBlock f fc p, headerFlags_headerByte f _, headerLen_headerByte f hp, rfl, rfl, ?_⟩
    rw [exec_block, ← ingestChunk_unit_member hf hb f hm hp]; rfl

/-! ### The SEND pseudo-commands -/

theorem stringRefusal_fits {p : List Byte} (h : p.length ≤ maxPayload) : stringRefusal p = none :=
  if_neg (Nat.not_lt.mpr h)

theorem operandRefusal_fits {t : FcTable} {fc : Byte} (hm : fc ∈ t.members) {p : List Byte}
    (h : p.length ≤ maxPayload) : operandRefusal t fc p = none := by
  rw [operandRefusal, if_neg (not_not.mpr hm), if_neg (Nat.not_lt.mpr h)]

/-- With legal configuration inputs an MK_* command answers a canonical block whose payload fits. -/
theorem exec_mk {s : State} (hl : s.cfg.legal) {mk : Instr}
    (hmk : mk ∈ [Instr.mkAckStandby, .mkAckDisconnect, .mkAck, .mkReject, .mkRemoteLogin, .mkConfiguration]) :
    ∃ code p, p.length ≤ maxPayload ∧
      exec mk s = .next (s.answer (some (.made (replyBlock s.cfg code p))) []) := by
  obtain ⟨-, haccess, hcap⟩ := hl
  simp only [List.mem_cons, List.not_mem_nil, or_false] at hmk
  obtain rfl | rfl | rfl | rfl | rfl | rfl := hmk
  · exact ⟨_, [], by simp, rfl⟩
  · exact ⟨_, [], by simp, rfl⟩
  · exact ⟨_, [], by simp, rfl⟩
  · exact ⟨_, [], by simp, rfl⟩
  · refine ⟨.remoteLogin, s.cfg.accessCode, haccess, ?_⟩
    change execMkRemoteLogin s = _
    rw [execMkRemoteLogin, stringRefusal_fits haccess]; rfl
  · refine ⟨.configuration, s.cfg.capability, hcap, ?_⟩
    change execMkConfiguration s = _
    rw [execMkConfiguration, stringRefusal_fits hcap]; rfl

/-- The SEND of a canonical block's fields sends its bytes: SERIALIZE computes the same header and checksum. -/
theorem exec_sendOf_replyBlock (s : State) (code : FunctionCode) {p : List Byte} (hp : p.length ≤ maxPayload) :
    exec (sendOf (replyBlock s.cfg code p)) s = .next (sendBytes (replyBlock s.cfg code p).bytes s) := by
  have hflags : (replyBlock s.cfg code p).flags = s.cfg.replyFlags := headerFlags_headerByte _ _
  rw [sendOf, hflags, exec_send]
  have hfits := operandRefusal_fits (byte_mem_members s.cfg.fcSet code) hp
  change orRefuse (operandRefusal s.cfg.fcSet (s.cfg.fcSet.byte code) p) _ = _
  rw [hfits]; rfl

theorem sendMade_of_made {mk : Instr} {s t : State} {b : Block} (h : exec mk s = .next t)
    (hb : t.result = some (.made b)) : sendMade mk s = exec (sendOf b) t := by
  simp [sendMade, h, hb]

/-- Settles O50: the MK_* command makes a canonical block, whose fields SEND serializes back to its bytes. -/
theorem sendPseudoCommandsSendTheMadeBlock : Obligations.SendPseudoCommandsSendTheMadeBlock := by
  intro s mk hl hmk
  obtain ⟨code, p, hp, hexec⟩ := exec_mk hl hmk
  refine ⟨replyBlock s.cfg code p, Config.txAnswer s.draws, hexec, ?_⟩
  rw [sendMade_of_made hexec (answer_result ..)]
  exact exec_sendOf_replyBlock (s.answer (some (.made (replyBlock s.cfg code p))) []) code hp

end Sys2Proof.Proofs
end

section
/-! PROOFS. The family 40_framer.md, one INGEST: the fault gate, the overrun check, each pass of the loop and what
follows it, the account of the bytes, NEED_MORE and the host disciplines. -/

namespace Sys2Proof.Proofs

open Sys2Proof Sys2Proof.Machine Sys2Proof.Safety Sys2Proof.Laws

/-! ### The fault gate, the overrun check and the append -/

/-- Settles O3: the fault gate answers before anything else. -/
theorem faultedIngestHasNoEffect : Obligations.FaultedIngestHasNoEffect := by
  intro chunk s hf
  rw [exec_ingest, ingestChunk_faulted hf]; rfl

/-- The loop returns a Block or asks for more, and reports no overrun. -/
theorem extraction_result_ne_faultOverrun (e : Extraction) : e.result ≠ .faultOverrun := by
  obtain ⟨_ | b, _, _⟩ := e <;> simp [Extraction.result]

/-- INGEST within the capacity neither faults nor reports an overrun. -/
theorem ingestChunk_no_overrun {s : State} {chunk : List Byte} (hf : s.faulted = false)
    (hl : s.buf.length + chunk.length ≤ bufCap) :
    (ingestChunk chunk s).faulted = false ∧ (ingestChunk chunk s).result ≠ some .faultOverrun := by
  rw [ingestChunk_runs hf hl]
  exact ⟨hf, fun h => extraction_result_ne_faultOverrun _ (Option.some.inj h)⟩

/-- Settles O4: the two sides of the overrun check. -/
theorem overrunCheckIsStrict : Obligations.OverrunCheckIsStrict := by
  intro chunk s hf
  constructor
  · intro ho
    rw [exec_ingest, ingestChunk_overrun hf ho]; rfl
  · intro hl
    exact ⟨_, exec_ingest chunk s, ingestChunk_no_overrun hf hl⟩

/-- The chunk may as well have been in the buffer before. -/
theorem ingestChunk_append {s : State} {chunk : List Byte} (hf : s.faulted = false)
    (hl : s.buf.length + chunk.length ≤ bufCap) :
    ingestChunk chunk s = ingestChunk [] { s with buf := s.buf ++ chunk } := by
  have hl' : (s.buf ++ chunk).length + ([] : List Byte).length ≤ bufCap := by simpa using hl
  rw [ingestChunk_runs hf hl, ingestChunk_runs (s := { s with buf := s.buf ++ chunk }) hf hl', List.append_nil]
  rfl

/-- Settles O5: both sides run the loop on the same bytes. -/
theorem ingestAppendsTheChunk : Obligations.IngestAppendsTheChunk := by
  intro chunk s hf hl
  rw [exec_ingest, exec_ingest, ingestChunk_append hf hl]

/-! ### A pass that waits -/

/-- The loop returns at once with NEED_MORE and keeps every byte (40_framer.md R84, R86). -/
def Waits (c : Config) (buf : List Byte) : Prop :=
  extract c buf = ⟨none, buf, []⟩

/-- INGEST where the loop waits changes the buffer by the append and the answer only. -/
theorem ingestChunk_waits {s : State} {chunk : List Byte} (hf : s.faulted = false)
    (hl : s.buf.length + chunk.length ≤ bufCap) (hw : Waits s.cfg (s.buf ++ chunk)) :
    ingestChunk chunk s = { s with buf := s.buf ++ chunk, result := some .needMore, events := [] } := by
  rw [ingestChunk_runs hf hl, hw, ingested_quiet]; rfl

theorem waits_short {c : Config} {buf : List Byte} (h : buf.length < 3) : Waits c buf :=
  extract_short c h

theorem waits_incomplete {c : Config} {buf : List Byte} (h3 : 3 ≤ buf.length)
    (hm : buf.getD 1 0 ∈ c.fcSet.members) (hl : buf.length < blockSize (buf.getD 0 0)) : Waits c buf := by
  apply extract_incomplete
  rcases pass_cases c.fcSet buf with ⟨h, _⟩ | ⟨_, h, _⟩ | ⟨_, _, _, e⟩ | ⟨h, _⟩ | ⟨h, _⟩
  · omega
  · exact absurd hm h
  · exact e
  all_goals omega

/-- Settles O6: the loop waits whatever byte 1 is. -/
theorem fewerThanThreeBytesNeedMore : Obligations.FewerThanThreeBytesNeedMore := by
  intro chunk s hf h3
  have hl : s.buf.length + chunk.length ≤ bufCap := by
    rw [List.length_append] at h3
    exact Nat.le_trans (Nat.le_of_lt h3) (by decide)
  rw [exec_ingest, ingestChunk_waits hf hl (waits_short h3)]

/-- Settles O8: the size is that of the length field, and the loop waits for it. -/
theorem incompleteBlockWaits : Obligations.IncompleteBlockWaits := by
  intro chunk s h fc x rest hf hl hbuf hm
  refine ⟨⟨Nat.le_add_left 3 _, blockSize_le h⟩, fun hlt => ?_⟩
  rw [exec_ingest, ingestChunk_waits hf hl]
  rw [hbuf] at hlt ⊢
  exact waits_incomplete (by simp) hm hlt

/-! ### A pass that drops a byte -/

/-- The passes after a drop run as an INGEST would whose events come behind those of the drop. -/
theorem ingested_after (s : State) (ev : List Event) (e : Extraction) :
    ingested s (e.after ev) =
      { ingested { s with txQueue := s.txQueue ++ (txBytes ev).map (TxBlock.mk .framer) } e with
        events := ev ++ e.events } := by
  simp [ingested, State.submit, State.answer]

/-- INGEST whose first pass drops a byte: the pass's events and blocks, then what INGEST of nothing does on the rest. -/
theorem ingestChunk_drop {s : State} {chunk rest : List Byte} {b : Byte} {ev : List Event} (hf : s.faulted = false)
    (hl : s.buf.length + chunk.length ≤ bufCap) (hbuf : s.buf ++ chunk = b :: rest)
    (hdrop : extract s.cfg (b :: rest) = (extract s.cfg rest).after ev) :
    ∃ u, exec (.ingest []) { s with
          buf := rest, txQueue := s.txQueue ++ (txBytes ev).map (TxBlock.mk .framer) } = .next u ∧
      exec (.ingest chunk) s = .next { u with events := ev ++ u.events } := by
  have hrest : rest.length + ([] : List Byte).length ≤ bufCap := by
    have := congrArg List.length hbuf
    simp only [List.length_append, List.length_cons] at this
    simp only [List.length_nil]; omega
  refine ⟨_, exec_ingest _ _, ?_⟩
  rw [exec_ingest, ingestChunk_runs hf hl, hbuf, hdrop, ingested_after, ingestChunk_runs (by exact hf) hrest,
    List.append_nil]
  rfl

/-- Settles O7: a resync puts no block on the TX port. -/
theorem invalidFunctionCodeDropsOneByte : Obligations.InvalidFunctionCodeDropsOneByte := by
  intro chunk s h fc x rest hf hl hbuf hm
  have hpass : framerPass s.cfg.fcSet (h :: fc :: x :: rest) = .badFunctionCode := pass_badFunctionCode (by simp) hm
  simpa [txBytes] using ingestChunk_drop hf hl hbuf (extract_badFunctionCode hpass)

/-- A whole candidate with a valid function code is judged by its checksum alone. -/
theorem pass_complete {t : FcTable} {buf : List Byte} (hm : buf.getD 1 0 ∈ t.members)
    (hl : blockSize (buf.getD 0 0) ≤ buf.length) :
    framerPass t buf =
      if checksumMatches (blockSize (buf.getD 0 0)) buf then .found (blockSize (buf.getD 0 0)) else .badChecksum := by
  have h3 : 3 ≤ blockSize (buf.getD 0 0) := Nat.le_add_left 3 _
  rcases pass_cases t buf with ⟨h, _⟩ | ⟨_, h, _⟩ | ⟨_, _, h, _⟩ | ⟨_, _, hc, e⟩ | ⟨_, _, hc, e⟩
  · omega
  · exact absurd hm h
  · omega
  · rw [e, hc]; rfl
  · rw [e, hc]; rfl

/-- The checksum test in the length field's own terms (40_framer.md R87). -/
theorem checksumMatches_blockSize (h : Byte) (xs : List Byte) :
    checksumMatches (blockSize h) xs = true ↔
      xorfold 0xFF (xs.take (headerLen h + 2)) = xs.getD (headerLen h + 2) 0 :=
  beq_iff_eq

/-- INGEST whose first pass finds a wrong checksum (40_framer.md R87). -/
theorem ingestChunk_badChecksum {s : State} {chunk rest : List Byte} {b : Byte} (hf : s.faulted = false)
    (hl : s.buf.length + chunk.length ≤ bufCap) (hbuf : s.buf ++ chunk = b :: rest)
    (hpass : framerPass s.cfg.fcSet (b :: rest) = .badChecksum) :
    ∃ u, exec (.ingest []) { s with
          buf := rest, txQueue := s.txQueue ++ [⟨.framer, (rejectBlock s.cfg).bytes⟩] } = .next u ∧
      exec (.ingest chunk) s =
        .next { u with events := .csumFail :: .notifyReject :: .tx (rejectBlock s.cfg).bytes :: u.events } :=
  ingestChunk_drop hf hl hbuf (extract_badChecksum hpass)

theorem exec_mkReject (s : State) :
    exec .mkReject s = .next (s.answer (some (.made (rejectBlock s.cfg))) []) := rfl

/-- The Reject of the default configuration: 00 39 C6. -/
theorem rejectBlock_default {c : Config} (halt : c.altReject = false) (hflags : c.replyFlags = 0)
    (hfc : c.fcSet = FcTable.default) : (rejectBlock c).bytes = [0x00, 0x39, 0xC6] := by
  rw [rejectBlock, replyBlock, halt, hflags, hfc]; decide

/-- Settles O9: MK_REJECT makes the Block the framer sends. -/
theorem checksumMismatchSendsReject : Obligations.ChecksumMismatchSendsReject := by
  intro chunk s h fc rest hf hl hbuf hm hsize hcs
  rw [hbuf] at hsize hcs
  have hpass : framerPass s.cfg.fcSet (h :: fc :: rest) = .badChecksum :=
    (pass_complete (buf := h :: fc :: rest) hm hsize).trans (if_neg (mt (checksumMatches_blockSize h _).mp hcs))
  obtain ⟨u, hu, hexec⟩ := ingestChunk_badChecksum hf hl hbuf hpass
  exact ⟨rejectBlock s.cfg, _, u, exec_mkReject s, rfl, rejectBlock_default, hu, hexec⟩

/-! ### A pass that finds a block -/

/-- Settles O10: the Block found is read off the first bytes, and the rest stays. -/
theorem matchingBlockIsExtracted : Obligations.MatchingBlockIsExtracted := by
  intro chunk s h fc rest hf hl hbuf hm hsize hcs
  rw [hbuf] at hsize hcs ⊢
  have hpass : framerPass s.cfg.fcSet (h :: fc :: rest) = .found (blockSize h) :=
    (pass_complete (buf := h :: fc :: rest) hm hsize).trans (if_pos ((checksumMatches_blockSize h _).mpr hcs))
  rw [exec_ingest, ingestChunk_runs hf hl, hbuf, extract_found hpass, ingested_quiet]
  rfl

/-- Settles O13: what INGEST returns is a valid Block. -/
theorem returnedBlockIsValid : Obligations.ReturnedBlockIsValid := by
  intro chunk s t b h hb
  have hv : ValidBlock s.cfg.fcSet b := by
    rw [exec_ingest] at h
    cases h
    exact ingestChunk_returns_valid chunk s b (by rw [hb]; rfl)
  obtain ⟨hlen, hm, hc⟩ := hv
  exact ⟨hlen, hm, hc, validBlock_fold ⟨hlen, hm, hc⟩⟩

/-- Settles O17: a valid Block's bytes at the front are found. -/
theorem oneWellFormedBlockPerCall : Obligations.OneWellFormedBlockPerCall := by
  intro chunk s b rest hf hl hv hbuf
  refine ⟨?_, ?_⟩
  · rw [bytes_length, hv.1]; rfl
  · rw [exec_ingest, ingestChunk_validBlock hf hl hv hbuf]

/-! ### The account of the bytes -/

@[simp] theorem dropCount_after_resync (e : Extraction) :
    dropCount (e.after [.resync]).events = dropCount e.events + 1 := rfl

@[simp] theorem dropCount_after_reject (c : Config) (e : Extraction) :
    dropCount (e.after (rejectEvents c)).events = dropCount e.events + 1 := rfl

/-- Every byte is kept, dropped or taken with the Block, and a drop leaves at least two bytes (40_framer.md R89). -/
theorem extract_account (c : Config) (buf : List Byte) :
    dropCount (extract c buf).events ≤ buf.length - 2 ∧
    (extract c buf).buf.length + dropCount (extract c buf).events + takenCount (some (extract c buf).result) =
      buf.length := by
  induction buf with
  | nil => simp [extract, dropCount, takenCount, Extraction.result]
  | cons b rest ih =>
    obtain ⟨hdrops, hsum⟩ := ih
    rcases pass_cases c.fcSet (b :: rest) with
      ⟨h, _⟩ | ⟨h3, _, e⟩ | ⟨_, _, _, e⟩ | ⟨hl, _, _, e⟩ | ⟨hl, _, _, e⟩
    · rw [extract_short c h]
      simp [dropCount, takenCount, Extraction.result]
    · rw [extract_badFunctionCode e, dropCount_after_resync, after_buf, after_result]
      simp only [List.length_cons] at h3 ⊢; omega
    · rw [extract_incomplete e]
      simp [dropCount, takenCount, Extraction.result]
    · rw [extract_badChecksum e, dropCount_after_reject, after_buf, after_result]
      simp only [blockSize_eq, List.length_cons] at hl ⊢; omega
    · obtain ⟨hbytes, -⟩ := found_bytes hl
      rw [extract_found e]
      simp only [dropCount, takenCount, Extraction.result, hbytes, List.length_drop, List.length_take]
      omega

/-- Settles O11: without the loop nothing is dropped, and with it the account of the bytes bounds the drops. -/
theorem ingestAlwaysReturnsWithBoundedDrops : Obligations.IngestAlwaysReturnsWithBoundedDrops := by
  intro chunk s
  refine ⟨_, exec_ingest chunk s, ?_⟩
  rcases ingestChunk_cases chunk s with ⟨hf, e⟩ | ⟨_, ho, e⟩ | ⟨_, hl, e⟩ <;> rw [e]
  · exact ⟨Nat.zero_le _, fun h => by simp [h] at hf⟩
  · exact ⟨Nat.zero_le _, fun _ h => absurd ho (Nat.not_lt.mpr h)⟩
  · obtain ⟨hdrops, hsum⟩ := extract_account s.cfg (s.buf ++ chunk)
    rw [List.length_append] at hdrops hsum
    refine ⟨?_, fun _ _ => ⟨hdrops, hsum⟩⟩
    calc dropCount (extract s.cfg (s.buf ++ chunk)).events
        ≤ s.buf.length + chunk.length - 2 := hdrops
      _ ≤ 130 := Nat.sub_le_sub_right hl 2

/-! ### NEED_MORE -/

/-- Where the loop asks for more, what it leaves is a buffer on which it waits, for one of two reasons
(40_framer.md R93). -/
theorem extract_needMore {c : Config} {buf : List Byte} (h : (extract c buf).block = none) :
    Waits c (extract c buf).buf ∧
    ((extract c buf).buf.length ≤ 2 ∨
      ((extract c buf).buf.getD 1 0 ∈ c.fcSet.members ∧
        (extract c buf).buf.length < blockSize ((extract c buf).buf.getD 0 0))) := by
  induction buf with
  | nil => exact ⟨rfl, .inl (Nat.zero_le 2)⟩
  | cons b rest ih =>
    rcases pass_cases c.fcSet (b :: rest) with
      ⟨h3, _⟩ | ⟨_, _, e⟩ | ⟨_, hm, hl, e⟩ | ⟨_, _, _, e⟩ | ⟨_, _, _, e⟩
    · rw [extract_short c h3]
      exact ⟨waits_short h3, .inl (Nat.le_of_lt_succ h3)⟩
    · rw [extract_badFunctionCode e] at h ⊢
      exact ih h
    · rw [extract_incomplete e]
      exact ⟨extract_incomplete e, .inr ⟨hm, hl⟩⟩
    · rw [extract_badChecksum e] at h ⊢
      exact ih h
    · rw [extract_found e] at h
      cases h

theorem block_of_needMore {e : Extraction} (h : e.result = .needMore) : e.block = none := by
  obtain ⟨_ | b, _, _⟩ := e
  · rfl
  · cases h

/-- INGEST answers NEED_MORE only where the loop ran and asked for more. -/
theorem ingestChunk_needMore {s : State} {chunk : List Byte}
    (h : (ingestChunk chunk s).result = some .needMore) :
    s.faulted = false ∧ (extract s.cfg (s.buf ++ chunk)).block = none ∧
      ingestChunk chunk s = ingested s (extract s.cfg (s.buf ++ chunk)) := by
  rcases ingestChunk_cases chunk s with ⟨_, e⟩ | ⟨_, _, e⟩ | ⟨hf, _, e⟩ <;> rw [e] at h ⊢
  · cases h
  · cases h
  · exact ⟨hf, block_of_needMore (Option.some.inj h), rfl⟩

/-- What an INGEST that answers NEED_MORE leaves (40_framer.md R93). -/
theorem exec_needMore {s t : State} {chunk : List Byte} (h : exec (.ingest chunk) s = .next t)
    (hr : t.result = some .needMore) :
    t.faulted = false ∧ Waits t.cfg t.buf ∧
    (t.buf.length ≤ 2 ∨ (t.buf.getD 1 0 ∈ t.cfg.fcSet.members ∧ t.buf.length < blockSize (t.buf.getD 0 0))) := by
  rw [exec_ingest] at h
  cases h
  obtain ⟨hf, hb, e⟩ := ingestChunk_needMore hr
  rw [e]
  exact ⟨hf, extract_needMore hb⟩

/-- After a NEED_MORE at most MAX_BLOCK - 1 bytes are held. -/
theorem exec_needMore_length {s t : State} {chunk : List Byte} (h : exec (.ingest chunk) s = .next t)
    (hr : t.result = some .needMore) : t.buf.length ≤ 65 := by
  obtain ⟨-, -, h2 | ⟨-, hlt⟩⟩ := exec_needMore h hr
  · omega
  · have := blockSize_le (t.buf.getD 0 0)
    omega

/-- POLL where the loop waits changes the answer only. -/
theorem exec_poll_waits {s : State} (hf : s.faulted = false) (hl : s.buf.length ≤ bufCap) (hw : Waits s.cfg s.buf) :
    exec poll s = .next { s with result := some .needMore, events := [] } := by
  have h := ingestChunk_waits (chunk := []) hf (by simpa using hl) (by rwa [List.append_nil])
  rw [poll, exec_ingest, h, List.append_nil]

/-- POLL after a NEED_MORE repeats it. -/
theorem exec_poll_after_needMore {s t : State} {chunk : List Byte} (h : exec (.ingest chunk) s = .next t)
    (hr : t.result = some .needMore) : exec poll t = .next { t with result := some .needMore, events := [] } := by
  obtain ⟨hf, hw, -⟩ := exec_needMore h hr
  exact exec_poll_waits hf (Nat.le_trans (exec_needMore_length h hr) (by decide)) hw

/-- Settles O14: within the capacity an empty chunk cannot overrun. -/
theorem pollNeverRaisesOverrun : Obligations.PollNeverRaisesOverrun := by
  refine ⟨rfl, fun s hl => ⟨_, exec_ingest [] s, ?_⟩, fun chunk s t h hr => exec_poll_after_needMore h hr⟩
  cases hf : s.faulted
  · obtain ⟨hf', hr⟩ := ingestChunk_no_overrun (chunk := []) hf (by simpa using hl)
    exact ⟨hf', by simp [hr]⟩
  · rw [ingestChunk_faulted hf]
    exact ⟨hf, by simp⟩

/-- Settles O15: the two reasons the loop can wait for, each of which bounds the buffer. -/
theorem stateAfterNeedMore : Obligations.StateAfterNeedMore := by
  intro chunk s t h hr
  obtain ⟨-, -, hcases⟩ := exec_needMore h hr
  refine ⟨hcases, exec_needMore_length h hr, ?_⟩
  rw [exec_poll_after_needMore h hr, ← hr]

/-! ### The host disciplines -/

/-- A chunk that does not fit leaves the machine faulted, whatever it was before. -/
theorem ingestChunk_too_long {s : State} {chunk : List Byte} (ho : bufCap < s.buf.length + chunk.length) :
    (ingestChunk chunk s).faulted = true ∧ (ingestChunk chunk s).result = some .faultOverrun := by
  cases hf : s.faulted
  · rw [ingestChunk_overrun hf ho]; exact ⟨rfl, rfl⟩
  · rw [ingestChunk_faulted hf]; exact ⟨hf, rfl⟩

/-- RESET and NEED_MORE leave room for 67 bytes. -/
theorem room_after_reset_or_needMore {s t : State}
    (h : exec .reset s = .next t ∨ ∃ c, exec (.ingest c) s = .next t ∧ t.result = some .needMore) :
    t.faulted = false ∧ t.buf.length ≤ 65 := by
  obtain h | ⟨c, h, hr⟩ := h
  · rw [exec_reset] at h
    cases h
    exact ⟨rfl, Nat.zero_le 65⟩
  · exact ⟨(exec_needMore h hr).1, exec_needMore_length h hr⟩

/-- Beside 65 bytes there is room for one more. -/
theorem byte_fits {s : State} (b : Byte) (hl : s.buf.length ≤ 65) : s.buf.length + [b].length ≤ bufCap :=
  Nat.le_trans (Nat.add_le_add_right hl 1) (by decide)

/-- A byte at a time: after NEED_MORE at most 65 bytes are held, and a Block returned took at least three of 66. -/
theorem ingestChunk_byte_length {s : State} (b : Byte) (hf : s.faulted = false) (hl : s.buf.length ≤ 65) :
    (ingestChunk [b] s).buf.length ≤ 65 := by
  have hruns := ingestChunk_runs hf (byte_fits b hl)
  cases hb : (extract s.cfg (s.buf ++ [b])).block with
  | none =>
    exact exec_needMore_length (exec_ingest [b] s) (by rw [hruns, ingested_result, Extraction.result, hb])
  | some blk =>
    obtain ⟨-, hsum⟩ := extract_account s.cfg (s.buf ++ [b])
    rw [Extraction.result, hb, takenCount, bytes_length, List.length_append, List.length_singleton] at hsum
    rw [hruns, ingested_buf]
    omega

/-- A byte at a time never faults, for any list of bytes. -/
theorem hostCommand_bytes (bytes : List Byte) {s : State} (hf : s.faulted = false) (hl : s.buf.length ≤ 65) :
    (bytes.foldl (fun s b => (hostCommand (.ingest [b]) s).2) s).faulted = false ∧
    (bytes.foldl (fun s b => (hostCommand (.ingest [b]) s).2) s).buf.length ≤ 65 := by
  induction bytes generalizing s with
  | nil => exact ⟨hf, hl⟩
  | cons b bytes ih =>
    exact ih (ingestChunk_no_overrun hf (byte_fits b hl)).1 (ingestChunk_byte_length b hf hl)

/-- Settles O16: each clause compares what is held and the chunk with the capacity. -/
theorem hostDisciplinesAvoidOverrun : Obligations.HostDisciplinesAvoidOverrun := by
  refine ⟨fun s t chunk h hc => ?_, fun s b hf hl => ?_, fun s bytes hf hl => hostCommand_bytes bytes hf hl,
    fun s chunk hc => ?_, fun s t c chunk h hr h65 hc => ?_⟩
  · obtain ⟨hf, hl⟩ := room_after_reset_or_needMore h
    exact ⟨_, exec_ingest chunk t, ingestChunk_no_overrun hf (Nat.add_le_add hl hc)⟩
  · obtain ⟨hf', hr⟩ := ingestChunk_no_overrun hf (byte_fits b hl)
    exact ⟨_, exec_ingest [b] s, hf', hr, ingestChunk_byte_length b hf hl⟩
  · exact ⟨_, exec_ingest chunk s, ingestChunk_too_long (Nat.lt_add_left _ hc)⟩
  · exact ⟨_, exec_ingest chunk t, ingestChunk_too_long (by rw [h65, hc]; decide)⟩

end Sys2Proof.Proofs
end

section
/-! PROOFS. The family 40_framer.md, corrupted blocks: one flipped bit is detected, an even-column corruption is not. -/

namespace Sys2Proof.Proofs

open Sys2Proof Sys2Proof.Machine Sys2Proof.Safety Sys2Proof.Laws

/-! ### Flipping a bit -/

@[simp] theorem flipBit_length (i j : Nat) (xs : List Byte) : (flipBit i j xs).length = xs.length :=
  List.length_set

theorem flipBit_getD_ne {i k : Nat} (j : Nat) (xs : List Byte) (h : i ≠ k) :
    (flipBit i j xs).getD k 0 = xs.getD k 0 := by
  simp [flipBit, List.getD_eq_getElem?_getD, List.getElem?_set_ne h]

/-- A change of one byte changes the fold by the same bits. -/
theorem xorfold_set (s d : Byte) {xs : List Byte} {i : Nat} (h : i < xs.length) :
    xorfold s (xs.set i (xs.getD i 0 ^^^ d)) = d ^^^ xorfold s xs := by
  induction xs generalizing s i with
  | nil => simp at h
  | cons x xs ih =>
    cases i with
    | zero =>
      rw [List.getD_cons_zero, List.set_cons_zero, xorfold_cons, xorfold_cons, ← xorfold_seed]
      congr 1
      ac_rfl
    | succ i =>
      rw [List.getD_cons_succ, List.set_cons_succ, xorfold_cons, xorfold_cons, ih _ (Nat.lt_of_succ_lt_succ h)]

theorem xorfold_flipBit (j : Nat) {xs : List Byte} {i : Nat} (h : i < xs.length) :
    xorfold 0x00 (flipBit i j xs) = (BitVec.ofNat 8 1 <<< j) ^^^ xorfold 0x00 xs :=
  xorfold_set 0x00 _ h

/-- Two flips of one bit position leave every column's parity as it was. -/
theorem xorfold_flipBit_flipBit (j : Nat) {xs : List Byte} {i k : Nat} (hi : i < xs.length) (hk : k < xs.length) :
    xorfold 0x00 (flipBit k j (flipBit i j xs)) = xorfold 0x00 xs := by
  rw [xorfold_flipBit j (by rwa [flipBit_length]), xorfold_flipBit j hi, ← BitVec.xor_assoc, BitVec.xor_self,
    BitVec.zero_xor]

theorem flipBit_mask_ne_zero {j : Nat} (h : j < 8) : BitVec.ofNat 8 1 <<< j ≠ 0 := by
  revert j; decide

/-! ### Corrupted bytes as a Block -/

/-- Bytes as many as a Block's are the bytes of a Block of the same payload length. -/
theorem exists_block_of_bytes {b : Block} {x : List Byte} (h : x.length = b.bytes.length) :
    ∃ b' : Block, b'.bytes = x ∧ b'.hdr = x.getD 0 0 ∧ b'.fc = x.getD 1 0 ∧
      b'.payload.length = b.payload.length := by
  rw [bytes_length] at h
  obtain ⟨hbytes, hlen⟩ := bytes_blockAt (n := x.length) (xs := x) (by omega) (Nat.le_refl _)
  exact ⟨blockAt x.length x, by rw [hbytes, List.take_length], rfl, rfl, by rw [hlen, h]; rfl⟩

/-- The checksum byte is right exactly when all bytes fold to 0xFF (41_codec.md R112). -/
theorem checksum_eq_cs (b : Block) : checksum (b.hdr :: b.fc :: b.payload) = b.cs ↔ xorfold 0x00 b.bytes = 0xFF :=
  checksum_closes _ _

theorem headerLen_of_mask {h h' : Byte} (e : h' &&& 0x3F = h &&& 0x3F) : headerLen h' = headerLen h :=
  congrArg BitVec.toNat e

/-! ### One flip -/

/-- Settles O19: the flip keeps the header and the function code, and turns the fold away from 0xFF. -/
theorem singleBitFlipIsDetected : Obligations.SingleBitFlipIsDetected := by
  intro s b rest i j hf hl hv h2 hi hj hbuf
  have hfold := validBlock_fold hv
  obtain ⟨hlen, hm, -⟩ := hv
  obtain ⟨b', hbytes, hhdr, hfc, hpay⟩ := exists_block_of_bytes (flipBit_length i j b.bytes)
  rw [flipBit_getD_ne j _ (by omega)] at hhdr hfc
  have hbad : xorfold 0x00 b'.bytes ≠ 0xFF := by
    rw [hbytes, xorfold_flipBit j hi, hfold]
    intro e
    exact flipBit_mask_ne_zero hj ((BitVec.xor_left_inj 0xFF).mp (e.trans BitVec.zero_xor.symm))
  have hpass : framerPass s.cfg.fcSet (b'.bytes ++ rest) = .badChecksum := by
    rw [pass_bytes b' rest (hfc ▸ hm) (by rw [hpay, hlen, hhdr]; rfl), if_neg (mt (checksum_eq_cs b').mp hbad)]
  have hfront : s.buf ++ [] = b'.hdr :: (b'.fc :: b'.payload ++ [b'.cs] ++ rest) := by
    rw [List.append_nil, hbuf, ← hbytes]; rfl
  have hdrop : s.buf.drop 1 = b'.fc :: b'.payload ++ [b'.cs] ++ rest := by
    rw [← List.append_nil s.buf, hfront]; rfl
  rw [hdrop]
  exact ingestChunk_badChecksum hf hl hfront hpass

/-! ### Even columns -/

/-- POLL returns as good any Block at the front whose length agrees, whose code is a member and whose bytes fold as
those of a good one. -/
theorem exec_poll_same_fold {s : State} {b b' : Block} {rest : List Byte} (hf : s.faulted = false)
    (hl : s.buf.length ≤ bufCap) (hv : ValidBlock s.cfg.fcSet b) (hhdr : b'.hdr &&& 0x3F = b.hdr &&& 0x3F)
    (hm : b'.fc ∈ s.cfg.fcSet.members) (hlen : b'.payload.length = b.payload.length)
    (hfold : xorfold 0x00 b'.bytes = xorfold 0x00 b.bytes) (hbuf : s.buf = b'.bytes ++ rest) :
    exec poll s = .next { s with buf := rest, result := some (.block b'), events := [] } := by
  have hv' : ValidBlock s.cfg.fcSet b' := by
    refine ⟨?_, hm, ((checksum_eq_cs b').mpr (hfold.trans (validBlock_fold hv))).symm⟩
    rw [hlen, hv.1, headerLen_of_mask hhdr]
  rw [poll, exec_ingest, ingestChunk_validBlock (chunk := []) hf hl hv' (by rw [List.append_nil, hbuf])]

/-- Settles O20: two flips in one column are a corruption that keeps the fold. -/
theorem evenColumnCorruptionIsAccepted : Obligations.EvenColumnCorruptionIsAccepted := by
  refine ⟨fun s b b' rest => exec_poll_same_fold, fun s b x rest i k j hf hl hv hi hk _ _ hx hhdr hm hbuf => ?_⟩
  obtain ⟨b', hbytes, hhdr', hfc, hpay⟩ := exists_block_of_bytes (b := b) (x := x) (by simp [hx])
  refine ⟨b', hbytes, exec_poll_same_fold hf hl hv (hhdr' ▸ hhdr) (hfc ▸ hm) hpay ?_ (hbytes ▸ hbuf)⟩
  rw [hbytes, hx, xorfold_flipBit_flipBit j hi hk]

end Sys2Proof.Proofs
end

section
/-! PROOFS. The family 40_framer.md, streaming: every cut of a stream gives the same Blocks, events and final buffer. -/

namespace Sys2Proof.Proofs

open Sys2Proof Sys2Proof.Machine Sys2Proof.Safety Sys2Proof.Laws

/-! ### The loop on a longer buffer -/

theorem checksumMatches_append {n : Nat} {xs : List Byte} (more : List Byte) (h0 : 0 < n) (hn : n ≤ xs.length) :
    checksumMatches n (xs ++ more) = checksumMatches n xs := by
  rw [checksumMatches, checksumMatches, slice, slice, List.take_append_of_le_length (by omega),
    List.getD_append _ _ _ _ (by omega)]

theorem blockAt_append {n : Nat} {xs : List Byte} (more : List Byte) (h2 : 2 ≤ n) (hn : n ≤ xs.length) :
    blockAt n (xs ++ more) = blockAt n xs := by
  rw [blockAt, blockAt, slice, slice, List.take_append_of_le_length (by omega),
    List.getD_append _ _ _ 0 (by omega), List.getD_append _ _ _ 1 (by omega),
    List.getD_append _ _ _ (n - 1) (by omega)]

/-- A whole candidate is judged the same whatever comes behind it. -/
theorem pass_complete_append {t : FcTable} {buf : List Byte} (more : List Byte) (hm : buf.getD 1 0 ∈ t.members)
    (hl : blockSize (buf.getD 0 0) ≤ buf.length) : framerPass t (buf ++ more) = framerPass t buf := by
  have h3 : 3 ≤ blockSize (buf.getD 0 0) := Nat.le_add_left 3 _
  have h0 : (buf ++ more).getD 0 0 = buf.getD 0 0 := List.getD_append _ _ _ _ (by omega)
  have h1 : (buf ++ more).getD 1 0 = buf.getD 1 0 := List.getD_append _ _ _ _ (by omega)
  have hl' : blockSize ((buf ++ more).getD 0 0) ≤ (buf ++ more).length := by
    rw [h0, List.length_append]; exact Nat.le_add_right_of_le hl
  rw [pass_complete hm hl, pass_complete (h1 ▸ hm) hl', h0, checksumMatches_append more (by omega) hl]

/-- A pass that does not wait finds the same whatever comes behind the bytes it has. -/
theorem framerPass_append {t : FcTable} {buf : List Byte} {p : Pass} (more : List Byte) (h : framerPass t buf = p)
    (hs : p ≠ .short) (hi : p ≠ .incomplete) : framerPass t (buf ++ more) = p := by
  subst h
  rcases pass_cases t buf with ⟨_, e⟩ | ⟨h3, hm, e⟩ | ⟨_, _, _, e⟩ | ⟨hl, hm, _⟩ | ⟨hl, hm, _⟩
  · exact absurd e hs
  · rw [e]
    exact pass_badFunctionCode (by rw [List.length_append]; exact Nat.le_add_right_of_le h3)
      (by rwa [List.getD_append _ _ _ _ (by omega)])
  · exact absurd e hi
  · exact pass_complete_append more hm hl
  · exact pass_complete_append more hm hl

/-- What the loop does when more bytes come: it goes on where it waited, or keeps them behind the Block it found. -/
def resume (c : Config) (more : List Byte) (e : Extraction) : Extraction :=
  match e.block with
  | none => (extract c (e.buf ++ more)).after e.events
  | some _ => { e with buf := e.buf ++ more }

theorem resume_after (c : Config) (more : List Byte) (ev : List Event) (e : Extraction) :
    resume c more (e.after ev) = (resume c more e).after ev := by
  obtain ⟨_ | b, rest, ev'⟩ := e
  · simp [resume, Extraction.after]
  · rfl

/-- The loop on a longer buffer is the loop on the shorter one, resumed (40_framer.md R96). -/
theorem extract_append (c : Config) (buf more : List Byte) :
    extract c (buf ++ more) = resume c more (extract c buf) := by
  induction buf with
  | nil => rfl
  | cons b rest ih =>
    cases hpass : framerPass c.fcSet (b :: rest) with
    | short => rw [extract, hpass]; rfl
    | incomplete => rw [extract, hpass]; rfl
    | badFunctionCode =>
      rw [extract_badFunctionCode hpass, resume_after, ← ih]
      exact extract_badFunctionCode (framerPass_append more hpass (by simp) (by simp))
    | badChecksum =>
      rw [extract_badChecksum hpass, resume_after, ← ih]
      exact extract_badChecksum (framerPass_append more hpass (by simp) (by simp))
    | found n =>
      obtain ⟨hn, hle, -⟩ := pass_found hpass
      have h2 : 2 ≤ n := hn ▸ Nat.le_add_left 2 _
      rw [extract_found (framerPass_append more hpass (by simp) (by simp)), extract_found hpass,
        blockAt_append more h2 hle, List.drop_append_of_le_length hle]
      rfl

/-! ### What a stream shows -/

/-- `Shows c buf o rest`: a host that POLLs until NEED_MORE sees `o` of the bytes `buf` and leaves `rest`. -/
inductive Shows (c : Config) : List Byte → List Seen → List Byte → Prop where
  /-- The loop asks for more. -/
  | needMore {buf rest : List Byte} {ev : List Event} (h : extract c buf = ⟨none, rest, ev⟩) :
      Shows c buf (ev.map .event) rest
  /-- The loop returns a Block, and the host POLLs again. -/
  | block {buf mid rest : List Byte} {ev : List Event} {b : Block} {o : List Seen}
      (h : extract c buf = ⟨some b, mid, ev⟩) (hmid : Shows c mid o rest) :
      Shows c buf (ev.map .event ++ .block b :: o) rest

/-- The bytes alone determine what is seen and what is left. -/
theorem Shows.unique {c : Config} {buf rest rest' : List Byte} {o o' : List Seen} (h : Shows c buf o rest)
    (h' : Shows c buf o' rest') : o = o' ∧ rest = rest' := by
  induction h generalizing o' with
  | needMore he => cases h' with
    | needMore he' => cases he.symm.trans he'; exact ⟨rfl, rfl⟩
    | block he' _ => cases he.symm.trans he'
  | block he _ ih => cases h' with
    | needMore he' => cases he.symm.trans he'
    | block he' hmid' =>
      cases he.symm.trans he'
      obtain ⟨rfl, rfl⟩ := ih hmid'
      exact ⟨rfl, rfl⟩

/-- What is left is a buffer on which the loop waits. -/
theorem Shows.waits {c : Config} {buf rest : List Byte} {o : List Seen} (h : Shows c buf o rest) : Waits c rest := by
  induction h with
  | @needMore buf _ _ he =>
    have := (extract_needMore (c := c) (buf := buf) (by rw [he])).1
    rwa [he] at this
  | block _ _ ih => exact ih

/-- Events of earlier passes come before what the passes after them show. -/
theorem Shows.after {c : Config} {buf buf' rest : List Byte} {ev : List Event} {o : List Seen}
    (he : extract c buf' = (extract c buf).after ev) (h : Shows c buf o rest) :
    Shows c buf' (ev.map .event ++ o) rest := by
  cases h with
  | needMore h =>
    rw [← List.map_append]
    exact .needMore (by rw [he, h]; rfl)
  | block h hmid =>
    rw [← List.append_assoc, ← List.map_append]
    exact .block (by rw [he, h]; rfl) hmid

/-- A stream in two parts shows what the first part shows, and then what the second shows behind what was left. -/
theorem Shows.append {c : Config} {buf mid rest more : List Byte} {o o' : List Seen} (h : Shows c buf o mid)
    (h' : Shows c (mid ++ more) o' rest) : Shows c (buf ++ more) (o ++ o') rest := by
  induction h with
  | needMore he => exact h'.after (by rw [extract_append, he]; rfl)
  | block he _ ih =>
    rw [List.append_assoc, List.cons_append]
    exact .block (by rw [extract_append, he]; rfl) (ih h')

/-! ### Draining -/

theorem drain_stops {s : State} (fuel : Nat) (h : ∀ b, s.result ≠ some (.block b)) : drain fuel s = ([], s) := by
  cases fuel with
  | zero => rfl
  | succ fuel =>
    unfold drain
    split
    · next b hb => exact absurd hb (h b)
    · rfl

theorem drain_block {s : State} {b : Block} (fuel : Nat) (h : s.result = some (.block b)) :
    drain (fuel + 1) s =
      (seen (ingestChunk [] s) ++ (drain fuel (ingestChunk [] s)).1, (drain fuel (ingestChunk [] s)).2) := by
  rw [drain, h]; rfl

theorem ingestAndDrain_eq (chunk : List Byte) (s : State) :
    ingestAndDrain chunk s =
      (seen (ingestChunk chunk s) ++ (drain ((ingestChunk chunk s).buf.length + 1) (ingestChunk chunk s)).1,
        (drain ((ingestChunk chunk s).buf.length + 1) (ingestChunk chunk s)).2) := rfl

theorem feed_cons (chunk : List Byte) (cut : List (List Byte)) (s : State) :
    feed (chunk :: cut) s =
      ((ingestAndDrain chunk s).1 ++ (feed cut (ingestAndDrain chunk s).2).1,
        (feed cut (ingestAndDrain chunk s).2).2) := rfl

/-- INGEST takes at least three bytes, unless the loop asks for more. -/
theorem ingestChunk_needMore_or_shorter {s : State} {chunk : List Byte} (hf : s.faulted = false)
    (hl : s.buf.length + chunk.length ≤ bufCap) :
    (extract s.cfg (s.buf ++ chunk)).block = none ∨
      (ingestChunk chunk s).buf.length + 3 ≤ s.buf.length + chunk.length := by
  obtain ⟨-, hsum⟩ := extract_account s.cfg (s.buf ++ chunk)
  rw [ingestChunk_runs hf hl, ingested_buf]
  cases hb : (extract s.cfg (s.buf ++ chunk)).block with
  | none => exact .inl rfl
  | some b =>
    rw [Extraction.result, hb, takenCount, bytes_length, List.length_append] at hsum
    exact .inr (by omega)

theorem seen_needMore (s : State) (rest : List Byte) (ev : List Event) :
    seen (ingested s ⟨none, rest, ev⟩) = ev.map .event :=
  List.append_nil _

theorem seen_block (s : State) (b : Block) (rest : List Byte) (ev : List Event) :
    seen (ingested s ⟨some b, rest, ev⟩) = ev.map .event ++ [.block b] := rfl

/-- A host that has drained these bytes saw what they show, holds what they leave, and met no fault. -/
def Drained (c : Config) (buf : List Byte) (r : List Seen × State) : Prop :=
  Shows c buf r.1 r.2.buf ∧ r.2.faulted = false ∧ r.2.cfg = c

/-- An INGEST that asks for more is drained at once. -/
theorem drained_of_needMore (fuel : Nat) {s : State} {chunk : List Byte} (hf : s.faulted = false)
    (hl : s.buf.length + chunk.length ≤ bufCap) (hb : (extract s.cfg (s.buf ++ chunk)).block = none) :
    Drained s.cfg (s.buf ++ chunk)
      (seen (ingestChunk chunk s) ++ (drain fuel (ingestChunk chunk s)).1, (drain fuel (ingestChunk chunk s)).2) := by
  rw [ingestChunk_runs hf hl]
  cases he : extract s.cfg (s.buf ++ chunk) with
  | mk block rest ev =>
    obtain rfl : block = none := by rwa [he] at hb
    rw [drain_stops fuel (by simp [Extraction.result]), seen_needMore, List.append_nil]
    exact ⟨.needMore he, hf, rfl⟩

/-- An INGEST that returns a Block is drained when what it leaves is. -/
theorem drained_of_block {s : State} {chunk : List Byte} {b : Block} {r : List Seen × State} (hf : s.faulted = false)
    (hl : s.buf.length + chunk.length ≤ bufCap) (hb : (extract s.cfg (s.buf ++ chunk)).block = some b)
    (h : Drained s.cfg (ingestChunk chunk s).buf r) :
    Drained s.cfg (s.buf ++ chunk) (seen (ingestChunk chunk s) ++ r.1, r.2) := by
  rw [ingestChunk_runs hf hl] at h ⊢
  cases he : extract s.cfg (s.buf ++ chunk) with
  | mk block rest ev =>
    obtain rfl : block = some b := by rwa [he] at hb
    rw [he] at h
    obtain ⟨hshows, hrest⟩ := h
    rw [seen_block, List.append_assoc, List.singleton_append]
    exact ⟨.block he hshows, hrest⟩

/-- An INGEST within the capacity is drained with fuel for every Block that may still be held: no POLL overruns, and
each Block takes bytes. -/
theorem drained_of_fuel (fuel : Nat) {s : State} {chunk : List Byte} (hf : s.faulted = false)
    (hl : s.buf.length + chunk.length ≤ bufCap)
    (hfuel : (extract s.cfg (s.buf ++ chunk)).block = none ∨ (ingestChunk chunk s).buf.length < fuel) :
    Drained s.cfg (s.buf ++ chunk)
      (seen (ingestChunk chunk s) ++ (drain fuel (ingestChunk chunk s)).1, (drain fuel (ingestChunk chunk s)).2) := by
  induction fuel generalizing s chunk with
  | zero => exact drained_of_needMore 0 hf hl (hfuel.resolve_right (Nat.not_lt_zero _))
  | succ fuel ih =>
    cases hb : (extract s.cfg (s.buf ++ chunk)).block with
    | none => exact drained_of_needMore _ hf hl hb
    | some b =>
      have hlt := hfuel.resolve_left (by simp [hb])
      have hshort := (ingestChunk_needMore_or_shorter hf hl).resolve_left (by simp [hb])
      have hres : (ingestChunk chunk s).result = some (.block b) := by
        rw [ingestChunk_runs hf hl, ingested_result, Extraction.result, hb]
      have hf' := (ingestChunk_no_overrun hf hl).1
      have hl' : (ingestChunk chunk s).buf.length + ([] : List Byte).length ≤ bufCap := by
        simp only [List.length_nil]; omega
      have hpoll := ih hf' hl' ((ingestChunk_needMore_or_shorter hf' hl').imp_right fun h => by
        simp only [List.length_nil] at h; omega)
      rw [List.append_nil, ingestChunk_cfg] at hpoll
      refine drained_of_block hf hl hb ?_
      rwa [drain_block fuel hres]

theorem drained_ingestAndDrain {s : State} {chunk : List Byte} (hf : s.faulted = false)
    (hl : s.buf.length + chunk.length ≤ bufCap) : Drained s.cfg (s.buf ++ chunk) (ingestAndDrain chunk s) :=
  drained_of_fuel _ hf hl (.inr (Nat.lt_succ_self _))

/-! ### Feeding -/

/-- An INGEST that reports an overrun is not drained. -/
theorem ingestAndDrain_of_faultOverrun {s : State} {chunk : List Byte}
    (h : (ingestChunk chunk s).result = some .faultOverrun) : (ingestAndDrain chunk s).2 = ingestChunk chunk s := by
  rw [ingestAndDrain_eq, drain_stops _ (by simp [h])]

/-- A host that has drained a chunk without a fault had none before, and the chunk fitted. -/
theorem ingestAndDrain_unfaulted {s : State} {chunk : List Byte} (h : (ingestAndDrain chunk s).2.faulted = false) :
    s.faulted = false ∧ s.buf.length + chunk.length ≤ bufCap := by
  rcases ingestChunk_cases chunk s with ⟨hf, e⟩ | ⟨_, _, e⟩ | ⟨hf, hl, _⟩
  · rw [ingestAndDrain_of_faultOverrun (by rw [e]; rfl), e] at h
    exact absurd (hf.symm.trans h) (by decide)
  · rw [ingestAndDrain_of_faultOverrun (by rw [e]; rfl), e] at h
    cases h
  · exact ⟨hf, hl⟩

/-- The fault is sticky: a feed that ends without one never had one. -/
theorem feed_unfaulted (cut : List (List Byte)) {s : State} (h : (feed cut s).2.faulted = false) :
    s.faulted = false := by
  induction cut generalizing s with
  | nil => exact h
  | cons chunk cut ih =>
    rw [feed_cons] at h
    exact (ingestAndDrain_unfaulted (ih h)).1

/-- A feed that never overruns, from a drained state, shows what the bytes held and fed show, however they are cut. -/
theorem feed_shows (cut : List (List Byte)) {s : State} (hw : Waits s.cfg s.buf)
    (h : (feed cut s).2.faulted = false) :
    Shows s.cfg (s.buf ++ cut.flatten) (feed cut s).1 (feed cut s).2.buf := by
  induction cut generalizing s with
  | nil =>
    rw [List.flatten_nil, List.append_nil]
    exact .needMore hw
  | cons chunk cut ih =>
    rw [feed_cons] at h ⊢
    obtain ⟨hf, hl⟩ := ingestAndDrain_unfaulted (feed_unfaulted cut h)
    obtain ⟨hfirst, -, hcfg⟩ := drained_ingestAndDrain hf hl
    have hrest := ih (hcfg ▸ hfirst.waits) h
    rw [hcfg] at hrest
    rw [List.flatten_cons, ← List.append_assoc]
    exact hfirst.append hrest

/-- Settles O18: both cuts show what the held bytes and the stream show, and that is unique. -/
theorem streamingEquivalence : Obligations.StreamingEquivalence := by
  intro s cut cut' hpoll hcut h h'
  obtain ⟨-, hw, -⟩ := exec_needMore hpoll rfl
  have hshows := feed_shows (s := s) cut hw h
  rw [hcut] at hshows
  exact hshows.unique (feed_shows (s := s) cut' hw h')

end Sys2Proof.Proofs
end

section
/-! PROOFS. The family 41_codec.md: CSUM and VERIFY, SERIALIZE and DESERIALIZE and their round trips, SEND, and the
canonical outbound blocks. -/

namespace Sys2Proof.Proofs

open Sys2Proof Sys2Proof.Machine Sys2Proof.Safety Sys2Proof.Laws

/-! ### CSUM -/

/-- The fold does not depend on the order of its bytes. -/
theorem xorfold_perm {x y : List Byte} (h : x.Perm y) (s : Byte) : xorfold s x = xorfold s y :=
  h.foldl_eq s

/-- The same byte twice leaves the fold as it was. -/
theorem xorfold_append_pair (s : Byte) (x : List Byte) (b : Byte) : xorfold s (x ++ [b, b]) = xorfold s x := by
  rw [xorfold_append, xorfold_cons, xorfold_cons, xorfold_nil, BitVec.xor_assoc, BitVec.xor_self, BitVec.xor_zero]

/-- Settles O22: CSUM answers the fold, which ignores order and cancels a pair. -/
theorem csumIgnoresOrderAndPairs : Obligations.CsumIgnoresOrderAndPairs := by
  intro x y b s
  refine ⟨fun h => ?_, ?_⟩
  · rw [exec_csum, exec_csum, xorfold_perm h]
  · rw [exec_csum, exec_csum, xorfold_append_pair]

/-! ### VERIFY -/

theorem exec_verify (x : List Byte) (s : State) :
    exec (.verify x) s = .next (s.answer (some (.verified (verifyBytes x))) []) := rfl

/-- The checksum test over a whole byte string compares its last byte with the fold of those before it. -/
theorem checksumMatches_length (x : List Byte) :
    checksumMatches x.length x = (xorfold 0xFF x.dropLast == x.getD (x.length - 1) 0) := by
  rw [List.dropLast_eq_take]; rfl

theorem verifyBytes_append (x : List Byte) (c : Byte) : verifyBytes (x ++ [c]) = (xorfold 0xFF x == c) := by
  rw [verifyBytes, checksumMatches_length]
  simp

/-- VERIFY asks whether all bytes fold from seed 0 to 0xFF (41_codec.md R112). -/
theorem verifyBytes_eq_fold (x : List Byte) : verifyBytes x = (xorfold 0x00 x == 0xFF) := by
  rcases List.eq_nil_or_concat x with rfl | ⟨x, c, rfl⟩
  · decide
  · rw [List.concat_eq_append, verifyBytes_append, Bool.eq_iff_iff, beq_iff_eq, beq_iff_eq]
    exact checksum_closes x c

/-- Settles O23: the empty list, the last byte against those before it, and the fold of all bytes. -/
theorem verifyComparesTheChecksum : Obligations.VerifyComparesTheChecksum := by
  intro s
  refine ⟨exec_verify [] s, fun x c => ?_, fun x => ?_⟩
  · rw [exec_verify, verifyBytes_append]; rfl
  · rw [exec_verify, verifyBytes_eq_fold]; rfl

/-! ### SERIALIZE -/

/-- The flags stand above the six length bits. -/
theorem headerByte_getLsbD_flag (flags : BitVec 2) (n i : Nat) :
    (headerByte flags n).getLsbD (6 + i) = flags.getLsbD i := by
  rw [headerByte, BitVec.getLsbD_append, if_neg (by omega), Nat.add_sub_cancel_left]

theorem operandRefusal_too_long {t : FcTable} {fc : Byte} (hm : fc ∈ t.members) {p : List Byte}
    (h : maxPayload < p.length) : operandRefusal t fc p = some .payloadTooLong := by
  rw [operandRefusal, if_neg (not_not.mpr hm), if_pos h]

theorem exec_serialize_fits (f : BitVec 2) {fc : Byte} {p : List Byte} {s : State} (hm : fc ∈ s.cfg.fcSet.members)
    (hp : p.length ≤ maxPayload) :
    exec (.serialize f fc p) s =
      .next { s with result := some (.serialized (makeBlock f fc p).bytes), events := [] } := by
  rw [exec_serialize, operandRefusal_fits hm hp]; rfl

/-- Settles O24: the header is `headerByte`, and the code is tested before the length. -/
theorem serializeLaysOutTheBlock : Obligations.SerializeLaysOutTheBlock := by
  intro f fc p s
  refine ⟨fun hm hp => ?_, fun hm => ?_, fun hm hp => ?_⟩
  · exact ⟨headerByte f p.length, headerByte_getLsbD_flag f _ 1, headerByte_getLsbD_flag f _ 0,
      headerLen_headerByte f hp, exec_serialize_fits f hm hp⟩
  · rw [exec_serialize, operandRefusal_of_not_mem hm, orRefuse_some]
  · rw [exec_serialize, operandRefusal_too_long hm hp, orRefuse_some]

/-! ### DESERIALIZE -/

theorem deserializeBytes_short {t : FcTable} {x : List Byte} (h : x.length < 3) :
    deserializeBytes t x = .invalid .short := by
  match x with
  | [] | [_] | [_, _] => rfl
  | _ :: _ :: _ :: _ => simp at h; omega

/-- The checks on three bytes or more, in their order (41_codec.md R103). -/
theorem deserializeBytes_of_three {t : FcTable} {x : List Byte} (h3 : 3 ≤ x.length) :
    deserializeBytes t x =
      if x.getD 1 0 ∉ t.members then .invalid .badFc
      else if x.length ≠ blockSize (x.getD 0 0) then .invalid .length
      else if checksumMatches x.length x then .deserialized (blockAt x.length x)
      else .invalid .badChecksum := by
  match x with
  | [] | [_] | [_, _] => simp at h3
  | _ :: _ :: _ :: _ => rfl

/-- With a valid code and the exact length the checksum decides (41_codec.md R103). -/
theorem deserializeBytes_sized {t : FcTable} {x : List Byte} (h3 : 3 ≤ x.length) (hm : x.getD 1 0 ∈ t.members)
    (hl : x.length = blockSize (x.getD 0 0)) :
    deserializeBytes t x =
      if xorfold 0xFF x.dropLast = x.getD (x.length - 1) 0 then .deserialized (blockAt x.length x)
      else .invalid .badChecksum := by
  rw [deserializeBytes_of_three h3, if_neg (not_not.mpr hm), if_neg (not_not.mpr hl), checksumMatches_length]
  simp only [beq_iff_eq]

/-- The Block in a whole byte string, field by field. -/
theorem blockAt_length (x : List Byte) :
    blockAt x.length x = ⟨x.getD 0 0, x.getD 1 0, x.dropLast.drop 2, x.getD (x.length - 1) 0⟩ := by
  rw [List.dropLast_eq_take]; rfl

/-- Settles O25: each answer is that of its own check, once the checks before it have passed. -/
theorem deserializeChecksInOrder : Obligations.DeserializeChecksInOrder := by
  intro x s
  refine ⟨_, exec_deserialize x s, deserializeBytes_short, fun h3 hm => ?_, fun h3 hm hl => ?_,
    fun h3 hm hl hc => ?_, fun h3 hm hl hc => ?_⟩
  · rw [deserializeBytes_of_three h3, if_pos hm]
  · rw [deserializeBytes_of_three h3, if_neg (not_not.mpr hm)]; exact if_pos hl
  · rw [deserializeBytes_sized h3 hm hl, if_neg hc]
  · rw [deserializeBytes_sized h3 hm hl, if_pos hc, blockAt_length]

/-! ### The round trips -/

theorem verifyBytes_validBlock {t : FcTable} {b : Block} (h : ValidBlock t b) : verifyBytes b.bytes = true := by
  rw [verifyBytes_eq_fold, validBlock_fold h]; rfl

theorem getD_last_bytes (b : Block) : b.bytes.getD (b.bytes.length - 1) 0 = b.cs := by
  rw [bytes_length]
  simpa using getD_checksum b []

/-- A valid Block is made of its own flags, code and payload: the header and the checksum are computed back. -/
theorem makeBlock_fields {t : FcTable} {b : Block} (h : ValidBlock t b) :
    makeBlock b.flags b.fc b.payload = b := by
  obtain ⟨hlen, -, hcs⟩ := h
  have hhdr : headerByte b.flags b.payload.length = b.hdr := by rw [hlen]; exact headerByte_fields b.hdr
  rw [makeBlock, hhdr, checksum, ← hcs]

theorem validBlock_payload_le {t : FcTable} {b : Block} (h : ValidBlock t b) : b.payload.length ≤ maxPayload :=
  h.1.trans_le (headerLen_le b.hdr)

/-- Settles O26: SERIALIZE returns the bytes of a valid Block, which the others accept, and a valid Block is made of its
own fields. -/
theorem serializeRoundTrips : Obligations.SerializeRoundTrips := by
  constructor
  · intro f fc p s hm hp
    have hv : ValidBlock s.cfg.fcSet (makeBlock f fc p) := validBlock_makeBlock f hm hp
    refine ⟨(makeBlock f fc p).bytes, makeBlock f fc p, _, exec_serialize_fits f hm hp, rfl, ?_, ?_, rfl, rfl, rfl,
      (getD_last_bytes _).symm, fun hb hf => ?_⟩
    · rw [exec_verify, verifyBytes_validBlock hv]; rfl
    · rw [exec_deserialize, deserializeBytes_bytes hv]; rfl
    · have hcap : s.buf.length + (makeBlock f fc p).bytes.length ≤ bufCap := by
        rw [hb, bytes_length, List.length_nil, Nat.zero_add]; exact unit_size_le hp
      rw [exec_ingest, ingestChunk_validBlock (rest := []) hf hcap hv (by simp [hb])]
  · intro x b s t hexec hres
    rw [exec_deserialize] at hexec
    cases hexec
    obtain ⟨hv, rfl⟩ := deserializeBytes_ok (Option.some.inj hres)
    rw [exec_serialize_fits b.flags hv.2.1 (validBlock_payload_le hv), makeBlock_fields hv]

/-! ### SEND -/

/-- Settles O27: SEND and SERIALIZE share their refusals, and SEND sends what SERIALIZE returns. -/
theorem sendEmitsOneWholeBlock : Obligations.SendEmitsOneWholeBlock := by
  intro f fc p s
  refine ⟨fun hm hp => ⟨_, Config.txAnswer s.draws, exec_serialize_fits f hm hp, ?_⟩, fun r h => ?_⟩
  · rw [exec_send, operandRefusal_fits hm hp, orRefuse_none, sendBytes_eq]; rfl
  · rw [exec_serialize] at h
    rw [exec_send]
    rcases hr : operandRefusal s.cfg.fcSet fc p with _ | r' <;> rw [hr] at h
    · cases h
    · exact h

/-! ### The canonical outbound blocks -/

/-- The header byte by its shift and its length, as 41_codec.md section 4 writes it. -/
theorem headerByte_eq_or (flags : BitVec 2) {n : Nat} (h : n ≤ 63) :
    headerByte flags n = (flags.setWidth 8 <<< 6) ||| BitVec.ofNat 8 n := by
  apply BitVec.eq_of_toNat_eq
  have hor := Nat.two_pow_add_eq_or_of_lt (i := 6) (b := n) (by omega) flags.toNat
  simp (disch := omega) only [headerByte_toNat, BitVec.toNat_or, BitVec.toNat_shiftLeft, BitVec.toNat_setWidth,
    BitVec.toNat_ofNat, Nat.shiftLeft_eq, Nat.mod_eq_of_lt]
  rw [Nat.mul_comm flags.toNat (2 ^ 6), ← hor]
  omega

/-- A canonical block field by field. -/
theorem replyBlock_eq (c : Config) (code : FunctionCode) {p : List Byte} (hp : p.length ≤ 63) {hdr : Byte}
    (h : hdr = (c.replyFlags.setWidth 8 <<< 6) ||| BitVec.ofNat 8 p.length) :
    replyBlock c code p =
      ⟨hdr, c.fcSet.byte code, p, xorfold 0xFF ([hdr, c.fcSet.byte code] ++ p)⟩ := by
  rw [h, ← headerByte_eq_or c.replyFlags hp]; rfl

/-- The four commands without a string answer the canonical block of their code. -/
theorem exec_fixedReply {s : State} {i : Instr} {code : FunctionCode}
    (h : (i, code) ∈
      [(Instr.mkAckStandby, FunctionCode.ackAndStandby), (Instr.mkAckDisconnect, FunctionCode.ackAndDisconnect),
       (Instr.mkAck, if s.cfg.altAck then FunctionCode.altAcknowledge else FunctionCode.acknowledge),
       (Instr.mkReject, if s.cfg.altReject then FunctionCode.altReject else FunctionCode.reject)]) :
    exec i s = .next (s.answer (some (.made (replyBlock s.cfg code []))) []) := by
  simp only [List.mem_cons, Prod.mk.injEq, List.not_mem_nil, or_false] at h
  obtain ⟨rfl, rfl⟩ | ⟨rfl, rfl⟩ | ⟨rfl, rfl⟩ | ⟨rfl, rfl⟩ := h <;> rfl

/-- Settles O28: without a payload the header is the flags alone. -/
theorem fixedReplyBlocks : Obligations.FixedReplyBlocks := by
  intro s hdr hhdr i code hi
  have hblock := replyBlock_eq s.cfg code (p := []) (by simp) (hdr := hdr) (by simpa using hhdr)
  rw [exec_fixedReply hi, hblock]; rfl

theorem stringRefusal_too_long {p : List Byte} (h : maxPayload < p.length) :
    stringRefusal p = some .configurationTooLong :=
  if_pos h

/-- The two commands with a configured string answer the canonical block with that string, if it can be a payload. -/
theorem exec_stringReply {s : State} {i : Instr} {code : FunctionCode} {str : List Byte}
    (h : (i, code, str) ∈
      [(Instr.mkRemoteLogin, FunctionCode.remoteLogin, s.cfg.accessCode),
       (Instr.mkConfiguration, FunctionCode.configuration, s.cfg.capability)]) :
    exec i s =
      orRefuse (stringRefusal str) (.next (s.answer (some (.made (replyBlock s.cfg code str))) [])) := by
  simp only [List.mem_cons, Prod.mk.injEq, List.not_mem_nil, or_false] at h
  obtain ⟨rfl, rfl, rfl⟩ | ⟨rfl, rfl, rfl⟩ := h <;> rfl

/-- Settles O29: a string that fits is the payload, and a longer one is refused. -/
theorem stringReplyBlocks : Obligations.StringReplyBlocks := by
  intro s i code str hi
  refine ⟨fun hp hdr hhdr => ?_, fun hp => ?_⟩
  · rw [exec_stringReply hi, stringRefusal_fits hp, orRefuse_none, replyBlock_eq s.cfg code hp hhdr]; rfl
  · rw [exec_stringReply hi, stringRefusal_too_long hp, orRefuse_some]

end Sys2Proof.Proofs
end

section
/-! PROOFS. The family 60_exceptions.md: the framing errors that show as events, the codec beside the framer, the one
cause and the whole effect of BufferOverrun, and the idle block. -/

namespace Sys2Proof.Proofs

open Sys2Proof Sys2Proof.Machine Sys2Proof.Safety Sys2Proof.Laws

/-! ### Framing errors as events -/

theorem dropEvents_false (c : Config) : dropEvents c false = [.resync] := rfl

theorem dropEvents_true (c : Config) : dropEvents c true = rejectEvents c := rfl

/-- The loop's events are those of its drops, one drop after the other. -/
theorem extract_events_drops (c : Config) (buf : List Byte) :
    ∃ drops : List Bool, (extract c buf).events = drops.flatMap (dropEvents c) := by
  induction buf with
  | nil => exact ⟨[], rfl⟩
  | cons b rest ih =>
    obtain ⟨drops, hdrops⟩ := ih
    rw [extract]
    split
    · exact ⟨[], rfl⟩
    · exact ⟨false :: drops, by rw [after_events, hdrops, List.flatMap_cons, dropEvents_false]⟩
    · exact ⟨[], rfl⟩
    · exact ⟨true :: drops, by rw [after_events, hdrops, List.flatMap_cons, dropEvents_true]⟩
    · exact ⟨[], rfl⟩

/-- The loop ends with NEED_MORE or with a Block (10_state.md R27). -/
theorem extraction_result_cases (e : Extraction) : e.result = .needMore ∨ ∃ b, e.result = .block b := by
  obtain ⟨_ | b, _, _⟩ := e
  · exact .inl rfl
  · exact .inr ⟨b, rfl⟩

/-- Settles O12: an INGEST that faults drops nothing, and one that runs the loop shows the loop's drops. -/
theorem recoveredErrorsShowAsEvents : Obligations.RecoveredErrorsShowAsEvents := by
  intro chunk s
  refine ⟨_, exec_ingest chunk s, ?_⟩
  rcases ingestChunk_cases chunk s with ⟨_, e⟩ | ⟨_, _, e⟩ | ⟨hf, _, e⟩ <;> rw [e]
  · exact ⟨[], rfl, fun h => absurd rfl h⟩
  · exact ⟨[], rfl, fun h => absurd rfl h⟩
  · obtain ⟨drops, hdrops⟩ := extract_events_drops s.cfg (s.buf ++ chunk)
    refine ⟨drops, hdrops, fun _ => ⟨hf, ?_⟩⟩
    simpa using extraction_result_cases (extract s.cfg (s.buf ++ chunk))

/-! ### The codec beside the framer -/

section
variable (buf : List Byte) (faulted : Bool) (s : State)

@[simp] theorem withFramer_cfg : (withFramer buf faulted s).cfg = s.cfg := rfl

theorem returns_withFramer (r : Result) :
    returns r (withFramer buf faulted s) = onNext (withFramer buf faulted) (returns r s) := rfl

theorem sendBytes_withFramer (bytes : List Byte) :
    sendBytes bytes (withFramer buf faulted s) = withFramer buf faulted (sendBytes bytes s) := rfl

end

/-- A refusal has no next state to act on. -/
theorem onNext_orRefuse (f : State → State) (refusal : Option Refusal) (o : Host.Outcome State Fault Refusal) :
    onNext f (orRefuse refusal o) = orRefuse refusal (onNext f o) := by
  cases refusal <;> rfl

/-- Settles O30: a codec command refuses by its operands and the configuration, and otherwise only answers or sends. -/
theorem codecIgnoresFramerState : Obligations.CodecIgnoresFramerState := by
  intro i s buf faulted hcodec
  cases i with
  | csum x => exact returns_withFramer buf faulted s _
  | verify x => exact returns_withFramer buf faulted s _
  | deserialize x => exact returns_withFramer buf faulted s _
  | mkAckStandby => exact returns_withFramer buf faulted s _
  | mkAckDisconnect => exact returns_withFramer buf faulted s _
  | mkAck => exact returns_withFramer buf faulted s _
  | mkReject => exact returns_withFramer buf faulted s _
  | serialize f fc p =>
    rw [exec_serialize, exec_serialize, onNext_orRefuse, withFramer_cfg]; rfl
  | send f fc p =>
    rw [exec_send, exec_send, onNext_orRefuse, withFramer_cfg, sendBytes_withFramer]; rfl
  | mkRemoteLogin =>
    rw [exec_stringReply (List.mem_cons_self ..), exec_stringReply (List.mem_cons_self ..), onNext_orRefuse,
      withFramer_cfg]
    rfl
  | mkConfiguration =>
    rw [exec_stringReply (List.mem_cons_of_mem _ (List.mem_cons_self ..)),
      exec_stringReply (List.mem_cons_of_mem _ (List.mem_cons_self ..)), onNext_orRefuse, withFramer_cfg]
    rfl
  | _ => cases hcodec

/-! ### BufferOverrun -/

/-- INGEST raises the fault only by its overrun check. -/
theorem ingestChunk_raises {s : State} {chunk : List Byte} (hf : s.faulted = false)
    (ht : (ingestChunk chunk s).faulted = true) :
    bufCap < s.buf.length + chunk.length ∧ ingestChunk chunk s = raiseBufferOverrun s := by
  rcases ingestChunk_cases chunk s with ⟨h, _⟩ | ⟨_, ho, e⟩ | ⟨_, hl, _⟩
  · rw [hf] at h; cases h
  · exact ⟨ho, e⟩
  · rw [(ingestChunk_no_overrun hf hl).1] at ht; cases ht

/-- An instruction raises the fault only as the INGEST of a chunk that would overfill the buffer
(60_exceptions.md R120). -/
theorem exec_raises {i : Instr} {s t : State} (h : exec i s = .next t) (hf : s.faulted = false)
    (ht : t.faulted = true) :
    ∃ chunk, chunkOf s.cfg.fcSet i = some chunk ∧ bufCap < s.buf.length + chunk.length ∧
      t = raiseBufferOverrun s := by
  cases exec_effect h with
  | reset _ e => simp [e] at ht
  | ingest chunk hc _ e =>
    obtain ⟨ho, hr⟩ := ingestChunk_raises hf (e ▸ ht)
    exact ⟨chunk, hc, ho, e.trans hr⟩
  | codec r _ _ _ _ e => simp [e, hf] at ht
  | send f fc p _ _ _ e => simp [e, sendBytes_eq, hf] at ht

/-- Settles O32: the cause is the overrun check's, the effect that of `raiseBufferOverrun`. -/
theorem bufferOverrunCauseAndEffect : Obligations.BufferOverrunCauseAndEffect := by
  refine ⟨fun i s t h hf ht => ?_, fun s h => resultBytes_some h⟩
  obtain ⟨chunk, hc, ho, rfl⟩ := exec_raises h hf ht
  exact ⟨⟨chunk, hc, ho⟩, rfl⟩

/-! ### The idle block -/

/-- Settles O38: without an input a step is `idle`. -/
theorem idleHoldsTheState : Obligations.IdleHoldsTheState := by
  intro s h
  rw [step, h]; rfl

end Sys2Proof.Proofs
end

section
/-! PROOFS. The family 70_reset_and_hazards.md: RESET and the fault, the invariant at reset, and the configuration
inputs before and after the first command. -/

namespace Sys2Proof.Proofs

open Sys2Proof Sys2Proof.Machine Sys2Proof.Safety Sys2Proof.Laws

/-! ### RESET and the fault -/

theorem clearFramer_idempotent (s : State) : clearFramer (clearFramer s) = clearFramer s := rfl

/-- Every instruction but RESET leaves a set fault set (70_reset_and_hazards.md R140). -/
theorem exec_keeps_fault {i : Instr} {s t : State} (h : exec i s = .next t) (hi : i ≠ .reset)
    (hs : s.faulted = true) : t.faulted = true := by
  cases exec_effect h with
  | reset hr _ => exact absurd hr hi
  | ingest chunk _ _ ht => rw [ht, ingestChunk_faulted hs, answer_faulted, hs]
  | codec r _ _ _ _ ht => rw [ht, answer_faulted, hs]
  | send f fc p _ _ _ ht => rw [ht, sendBytes_eq]; exact hs

/-- Settles O2: RESET is `clearFramer`, which is idempotent, and no other instruction clears a set fault. -/
theorem resetAloneClearsTheFault : Obligations.ResetAloneClearsTheFault := by
  refine ⟨exec_reset, fun s t u hst htu => ?_, fun i s t h hs ht => ?_⟩
  · rw [exec_reset] at hst htu
    cases hst; cases htu
    exact clearFramer_idempotent s
  · by_contra hi
    have hkept : t.faulted = true := exec_keeps_fault h hi hs
    rw [ht] at hkept; cases hkept

/-! ### The invariant at reset -/

theorem default_legal : Config.default.legal :=
  ⟨default_distinct, by decide, by decide⟩

/-- Settles O33: the default inputs are legal, and nothing is held, returned or sent. -/
theorem resetMeetsTheInvariant : Obligations.ResetMeetsTheInvariant :=
  ⟨Nat.zero_le _, default_legal, by simp [State.reset, returnedBlock], by simp [State.reset],
    fun _ => ⟨rfl, rfl, rfl, rfl, rfl⟩⟩

/-! ### The configuration inputs -/

section
variable {c : Config} {s : State}

theorem configure_repeated (ho : s.configClosed = false) (hd : ¬ c.fcSet.distinct) :
    configure c s = .refused .functionCodesNotDistinct := by
  rw [configure, if_neg (Bool.eq_false_iff.mp ho), if_pos hd]

theorem configure_too_long (ho : s.configClosed = false) (hd : c.fcSet.distinct)
    (hl : maxPayload < c.accessCode.length ∨ maxPayload < c.capability.length) :
    configure c s = .refused .configurationTooLong := by
  rw [configure, if_neg (Bool.eq_false_iff.mp ho), if_neg (not_not.mpr hd), if_pos hl]

/-- Before the first command legal inputs are taken: the converse of `configure_next`'s open case. -/
theorem configure_legal (ho : s.configClosed = false) (hl : c.legal) :
    configure c s = .next { s with cfg := c } := by
  obtain ⟨hd, haccess, hcap⟩ := hl
  rw [configure, if_neg (Bool.eq_false_iff.mp ho), if_neg (not_not.mpr hd),
    if_neg (not_or.mpr ⟨haccess.not_gt, hcap.not_gt⟩)]

theorem configure_changed (hc : s.configClosed = true) (hne : c ≠ s.cfg) :
    configure c s = .refused .configurationChanged := by
  rw [configure, if_pos hc, if_neg hne]

theorem configure_same (hc : s.configClosed = true) (he : c = s.cfg) : configure c s = .next s := by
  rw [configure, if_pos hc, if_pos he]

end

theorem step_configure {s : State} {c : Config} {rest : List Input} (h : s.input = .configure c :: rest) :
    step s = configure c { s with input := rest } := by
  rw [step, h]

/-- Settles O37: a configure step is `configure`, whose five cases are the five clauses. -/
theorem configurationIsConstantOnceRunning : Obligations.ConfigurationIsConstantOnceRunning := by
  intro s c rest h
  rw [step_configure h]
  exact ⟨fun ho hl => configure_legal ho hl, fun ho hd => configure_repeated ho hd,
    fun ho hd hl => configure_too_long ho hd hl, fun hc hne => configure_changed hc hne,
    fun hc he => configure_same hc he⟩

end Sys2Proof.Proofs
end
